-- ==== Sys2Proof/Word.lean ====
section
/-! DEFINITION. The value types shared by every layer: bytes, table entries and error codes. -/

namespace Sys2Proof

/-- A byte of `IN`, of the window or of `OUT` (20_memory.md R76). -/
abbrev Byte := BitVec 8

/-- One entry of a Huffman table: the code's length, its value, and the symbol (41_huffman_tables.md R160).
The bit string of the entry is the `len` bits of `code`, most-significant bit first. -/
structure Entry where
  len  : Nat
  code : Nat
  sym  : Nat
  deriving DecidableEq, Repr

/-- A Huffman table, its entries in ascending symbol order (R160, R164). The empty list is the empty table of R165. -/
abbrev Table := List Entry

/-- The error codes of 60_exceptions.md R310 (code 15 is reserved and never produced, so it has no constructor). -/
inductive ErrCode where
  | eNone | eStoredLen | eHuffOverfull | eHuffIncomplete | eNoEob | eDynCounts | eBackref | eBtypeReserved
  | ePrematureEnd | eZlibMethod | eZlibFcheck | eZlibFdict | eZlibAdler | eBadSymbol | eDynRepeat
  deriving DecidableEq, Repr

end Sys2Proof
end

