-- ==== Sys2Proof/Config.lean ====
section
/-! DEFINITION. The constants of 00_scope.md section 5, and the free values: what the spec leaves unspecified, as constants without a body. -/

namespace Sys2Proof.Config

/-- `WSIZE`: bytes in the history window (R63, R250). -/
def windowSize : Nat := 65536
/-- `MAXDIST` (R223, R239). -/
def maxDist : Nat := 32768
/-- `EOB`: the end-of-block symbol (R213). -/
def eobSym : Nat := 256
/-- `MAXBITS_LL`, `MAXBITS_D`: the longest code (R186, D32). -/
def maxBits : Nat := 15
/-- `ADLER_MOD` (R288, R289). -/
def adlerMod : Nat := 65521
/-- `ZLIB_HDR_MOD` (R282). -/
def zlibHdrMod : Nat := 31
/-- `ZLIB_CM_DEFLATE` (R281). -/
def zlibMethod : Nat := 8
/-- The value an engine register holds after a failed run: unspecified (R326, D18, U9; log 3). The first argument
names the register, the second is the counter `fresh` of the state. No body: nothing can be proved of a value of it. -/
opaque freeNat : Nat → Nat → Nat

/-- The Huffman table a table register holds after a failed run: unspecified (R326, U9; log 3). -/
opaque freeTable : Nat → Nat → Option Table

end Sys2Proof.Config
end

