-- ==== Sys2Proof/Machine/Bitstream.lean ====
section
/-! DEFINITION. Family bitstream_reader (40_bitstream_reader.md): the operations on a source of bits, and the input cursor as one such source. -/

namespace Sys2Proof.Machine

/-- The low `n` bits of `v`, least-significant bit first: the order of every integer field (R69). -/
def lsbBits : Nat → Nat → List Bool
  | 0, _ => []
  | n + 1, v => (v % 2 == 1) :: lsbBits n (v / 2)

/-- The low `n` bits of `v`, most-significant bit first: the order of a Huffman code (R70, R164). -/
def msbBits (n v : Nat) : List Bool := (lsbBits n v).reverse

/-- A source of bits: how one bit is taken (R140) and how one whole byte is taken at a byte boundary (R143).
`none` means that the source has no further bit or byte. The reader's operations are written once over any source, so
the decoder reads a list of bits and the input cursor with the same text. -/
structure Source (σ : Type) where
  bit  : σ → Option (Bool × σ)
  byte : σ → Option (Byte × σ)

variable {σ : Type}

/-- `EAT_BITS(n)` (R141): the first bit read is the result's least-significant bit. -/
def eatBits (src : Source σ) : Nat → σ → Option (Nat × σ)
  | 0, s => some (0, s)
  | n + 1, s =>
    match src.bit s with
    | none => none
    | some (b, s1) =>
      match eatBits src n s1 with
      | none => none
      | some (v, s2) => some (b.toNat + 2 * v, s2)

/-- The `k` bytes of `v` in the opposite order: byte `j` of the result is byte `k - 1 - j` of `v` (R142). -/
def byteReverse : Nat → Nat → Nat
  | 0, _ => 0
  | k + 1, v => (v % 256) * 256 ^ k + byteReverse k (v / 256)

/-- `EAT_BITS_SWAP_W(n)` for `W = 8 * k` (R142). -/
def eatBitsSwap (src : Source σ) (k n : Nat) (s : σ) : Option (Nat × σ) :=
  (eatBits src n s).map fun (v, s1) => (byteReverse k v, s1)

/-- `EAT_RAW(n)` (R143). Its precondition, a byte-aligned cursor, is checked where a byte is fetched (R74). -/
def eatRaw (src : Source σ) : Nat → σ → Option (List Byte × σ)
  | 0, s => some ([], s)
  | n + 1, s =>
    match src.byte s with
    | none => none
    | some (b, s1) =>
      match eatRaw src n s1 with
      | none => none
      | some (bs, s2) => some (b :: bs, s2)

/-- `DROP_BITS(n)` (R144). -/
def dropBits (src : Source σ) : Nat → σ → Option σ
  | 0, s => some s
  | n + 1, s =>
    match src.bit s with
    | none => none
    | some (_, s1) => dropBits src n s1

/-- Reading `k` fields of `n` bits each, in order (the body of R175). -/
def eatFields (src : Source σ) (n : Nat) : Nat → σ → Option (List Nat × σ)
  | 0, s => some ([], s)
  | k + 1, s =>
    match eatBits src n s with
    | none => none
    | some (v, s1) =>
      match eatFields src n k s1 with
      | none => none
      | some (vs, s2) => some (v :: vs, s2)

/-- A list of bits in stream order, as a source. -/
def listSource : Source (List Bool) where
  bit
    | [] => none
    | b :: bs => some (b, bs)
  byte bs :=
    if bs.length < 8 then none
    else some (BitVec.ofNat 8 ((bs.take 8).foldr (fun b v => b.toNat + 2 * v) 0), bs.drop 8)

/-- The input cursor, the "program counter" of the block (R20, R21). -/
structure Cursor where
  inPos   : Nat
  bitIdx  : BitVec 3
  curByte : Byte
  deriving DecidableEq, Repr

/-- `InFetch()` (R140) over an input `fetch` that answers `IN[p]`, or nothing where the source has no byte `p`. -/
def inFetch (fetch : Nat → Option Byte) (c : Cursor) : Option Cursor :=
  match fetch c.inPos with
  | none => none
  | some b => some { c with inPos := c.inPos + 1, curByte := b }

/-- `NextBit()` (R140). -/
def nextBit (fetch : Nat → Option Byte) (c : Cursor) : Option (Bool × Cursor) :=
  match (if c.bitIdx = 0#3 then inFetch fetch c else some c) with
  | none => none
  | some c1 => some (c1.curByte.getLsbD c1.bitIdx.toNat, { c1 with bitIdx := c1.bitIdx + 1#3 })

/-- One raw byte at a byte boundary (the loop body of R143): `cur_byte` is not written. -/
def nextRaw (fetch : Nat → Option Byte) (c : Cursor) : Option (Byte × Cursor) :=
  match fetch c.inPos with
  | none => none
  | some b => some (b, { c with inPos := c.inPos + 1 })

/-- The input cursor as a source of bits. -/
def cursorSource (fetch : Nat → Option Byte) : Source Cursor where
  bit := nextBit fetch
  byte := nextRaw fetch

/-- `ALIGN()` (R145). -/
def Cursor.align (c : Cursor) : Cursor := { c with bitIdx := 0#3 }

/-- `EMPTY()` (R146), for an input of which `n` bytes exist. -/
def Cursor.empty (c : Cursor) (n : Nat) : Bool := c.bitIdx == 0#3 && n ≤ c.inPos

/-- The absolute bit address of the next unread bit (R21). -/
def Cursor.bitAddr (c : Cursor) : Nat :=
  if c.bitIdx = 0#3 then 8 * c.inPos else 8 * (c.inPos - 1) + c.bitIdx.toNat

end Sys2Proof.Machine
end

