-- ==== Sys2Proof/Machine/Huffman.lean ====
section
/-! DEFINITION. Family canonical_huffman_decoder, the tables (41_huffman_tables.md R160 to R173): BUILD, the fixed tables, DECODE. -/

namespace Sys2Proof.Machine

/-- `count[L]`, with `count[0]` taken as 0 (R162). -/
def codeCount (lengths : List Nat) (l : Nat) : Nat :=
  if l = 0 then 0 else lengths.count l

/-- `first[L]`: the first code of the length class `L` (R162); `first[0]` is the initial 0 of the recurrence. -/
def firstCode (lengths : List Nat) : Nat → Nat
  | 0 => 0
  | l + 1 => (firstCode lengths l + codeCount lengths l) * 2

/-- The largest entry of `lengths` (R162). -/
def maxLen (lengths : List Nat) : Nat := lengths.foldl max 0

/-- R163 for one length class: it is given more codes than fit in its width. -/
def overfullAt (lengths : List Nat) (l : Nat) : Bool :=
  2 ^ l < firstCode lengths l + codeCount lengths l

/-- The over-full check of R163 over every length class. -/
def overfull (lengths : List Nat) : Bool :=
  (List.range (maxLen lengths)).any fun l => overfullAt lengths (l + 1)

/-- The first codes as a list indexed by length, 0 to `maxLen`: the initial `next[]` of R164. -/
def firstCodes (lengths : List Nat) : List Nat :=
  (List.range (maxLen lengths + 1)).map (firstCode lengths)

/-- The assignment loop of R164: `next` is `next[]`, `s` the symbol of the list's head. -/
def assign (next : List Nat) (s : Nat) : List Nat → Table
  | [] => []
  | l :: ls =>
    if l = 0 then assign next (s + 1) ls
    else ⟨l, next.getD l 0, s⟩ :: assign (next.set l (next.getD l 0 + 1)) (s + 1) ls

/-- The repair of R166: a single coded symbol is decoded by either bit. -/
def singleCode (s : Nat) : Table := [⟨1, 0, s⟩, ⟨1, 1, s⟩]

/-- `BUILD(lengths, allow_empty)` (R168), its tests in the order of that rule. -/
def build (lengths : List Nat) (allowEmpty : Bool) : Except ErrCode Table :=
  let t := assign (firstCodes lengths) 0 lengths
  if lengths.all (· == 0) then
    if allowEmpty then .ok [] else .error .eHuffIncomplete
  else if overfull lengths then .error .eHuffOverfull
  else
    match t with
    | [e] => .ok (singleCode e.sym)
    | _ =>
      if firstCode lengths (maxLen lengths) + codeCount lengths (maxLen lengths) = 2 ^ maxLen lengths then .ok t
      else .error .eHuffIncomplete

/-- The table of a list of lengths that `build` accepts; the empty table where it does not. -/
def tableOf (lengths : List Nat) : Table :=
  match build lengths false with
  | .ok t => t
  | .error _ => []

/-- The 288 fixed literal/length code lengths (R169). -/
def fixedLengths : List Nat :=
  List.replicate 144 8 ++ List.replicate 112 9 ++ List.replicate 24 7 ++ List.replicate 8 8

/-- `FIXED_LL` (R169). -/
def fixedLL : Table := tableOf fixedLengths

/-- `FIXED_D` (R170). -/
def fixedD : Table := tableOf (List.replicate 32 5)

/-- The symbol of the entry `(len, code)` of a table, if there is one (R171). -/
def lookup (t : Table) (len code : Nat) : Option Nat :=
  (t.find? fun e => e.len == len && e.code == code).map Entry.sym

/-- The loop of `DECODE` (R171): one bit a turn, the first bit the most significant. The first argument bounds the turns;
no code is longer than 15 bits (R186), so a walk that takes 15 turns without a match can never find one (log 10). -/
def walk {σ : Type} (src : Source σ) (t : Table) : Nat → Nat → Nat → σ → Option (Nat × σ)
  | 0, _, _, _ => none
  | fuel + 1, len, code, s =>
    match src.bit s with
    | none => none
    | some (b, s1) =>
      match lookup t (len + 1) (2 * code + b.toNat) with
      | some sym => some (sym, s1)
      | none => walk src t fuel (len + 1) (2 * code + b.toNat) s1

/-- `DECODE(T)` (R171) on a table that is not empty; the empty table is R173, tested by the caller. -/
def decodeSym {σ : Type} (src : Source σ) (t : Table) (s : σ) : Option (Nat × σ) :=
  walk src t Config.maxBits 0 0 s

/-- The bit string of a symbol's code, first bit first (R160): of its first entry, where a table has two (R166). -/
def codeBits (t : Table) (sym : Nat) : Option (List Bool) :=
  (t.find? fun e => e.sym == sym).map fun e => msbBits e.len e.code

end Sys2Proof.Machine
end

