-- ==== Sys2Proof/Syntax.lean ====
section
/-! DEFINITION. The stream elements: one constructor of `Instr` per row of spec/opcode_table.json, and the contexts a decoder reads them in (30_encoding.md). -/

namespace Sys2Proof

/-- A stream element. The operands are the fields of 30_encoding.md R104: `x` is the value of an element's extra bits. -/
inductive Instr where
  /-- BTYPE 0 (R206), operand BFINAL. -/
  | blkStored (bfinal : Bool)
  /-- BTYPE 1 (R207). -/
  | blkFixed (bfinal : Bool)
  /-- BTYPE 2 (R208). -/
  | blkDynamic (bfinal : Bool)
  /-- BTYPE 3 (R209). -/
  | blkReserved (bfinal : Bool)
  /-- LEN and NLEN of a stored block (R94, R206). -/
  | storedHdr (len nlen : BitVec 16)
  /-- One raw byte of a stored block (R210). -/
  | rawByte (b : Byte)
  /-- HLIT, HDIST, HCLEN (R95, R174). -/
  | dynHdr (hlit hdist : BitVec 5) (hclen : BitVec 4)
  /-- The 3-bit code lengths in the order they are sent (R96, R175). -/
  | clLens (lens : List (BitVec 3))
  /-- Code-length symbols 0 to 15 (R177). -/
  | clLen (len : BitVec 4)
  /-- Code-length symbol 16 (R178). -/
  | clCopy (x : BitVec 2)
  /-- Code-length symbol 17 (R179). -/
  | clZero3 (x : BitVec 3)
  /-- Code-length symbol 18 (R180). -/
  | clZero11 (x : BitVec 7)
  /-- Literal symbols 0 to 255 (R212). -/
  | lit (b : Byte)
  /-- Symbol 256 (R213). -/
  | eob
  | len257
  | len258
  | len259
  | len260
  | len261
  | len262
  | len263
  | len264
  | len265 (x : BitVec 1)
  | len266 (x : BitVec 1)
  | len267 (x : BitVec 1)
  | len268 (x : BitVec 1)
  | len269 (x : BitVec 2)
  | len270 (x : BitVec 2)
  | len271 (x : BitVec 2)
  | len272 (x : BitVec 2)
  | len273 (x : BitVec 3)
  | len274 (x : BitVec 3)
  | len275 (x : BitVec 3)
  | len276 (x : BitVec 3)
  | len277 (x : BitVec 4)
  | len278 (x : BitVec 4)
  | len279 (x : BitVec 4)
  | len280 (x : BitVec 4)
  | len281 (x : BitVec 5)
  | len282 (x : BitVec 5)
  | len283 (x : BitVec 5)
  | len284 (x : BitVec 5)
  | len285
  /-- Literal/length symbols 286 and 287 (R222), operand bit 0 of the symbol. -/
  | llInvalid (b0 : BitVec 1)
  | dist0
  | dist1
  | dist2
  | dist3
  | dist4 (x : BitVec 1)
  | dist5 (x : BitVec 1)
  | dist6 (x : BitVec 2)
  | dist7 (x : BitVec 2)
  | dist8 (x : BitVec 3)
  | dist9 (x : BitVec 3)
  | dist10 (x : BitVec 4)
  | dist11 (x : BitVec 4)
  | dist12 (x : BitVec 5)
  | dist13 (x : BitVec 5)
  | dist14 (x : BitVec 6)
  | dist15 (x : BitVec 6)
  | dist16 (x : BitVec 7)
  | dist17 (x : BitVec 7)
  | dist18 (x : BitVec 8)
  | dist19 (x : BitVec 8)
  | dist20 (x : BitVec 9)
  | dist21 (x : BitVec 9)
  | dist22 (x : BitVec 10)
  | dist23 (x : BitVec 10)
  | dist24 (x : BitVec 11)
  | dist25 (x : BitVec 11)
  | dist26 (x : BitVec 12)
  | dist27 (x : BitVec 12)
  | dist28 (x : BitVec 13)
  | dist29 (x : BitVec 13)
  /-- Distance symbols 30 and 31 (R238), operand bit 0 of the symbol. -/
  | distInvalid (b0 : BitVec 1)
  /-- The two zlib header bytes (R102, R280). -/
  | zhdr (cmf flg : Byte)
  /-- The expected Adler-32 of the zlib trailer (R103, R286). -/
  | ztrailer (expected : BitVec 32)
  deriving DecidableEq, Repr

/-- The formats of 30_encoding.md: what kind of element is read. -/
inductive Format where
  | zhdr | blkHdr | storedHdr | dynHdr | clLens | clSym | rawByte | llSym | dSym | ztrailer
  deriving DecidableEq, Repr

/-- What a decoder must know to read the next element: its format, and what the state supplies to that format
(R91, R92): the number of code lengths of CLLENS, the active table of a Huffman-coded symbol, and for a code-length
symbol whether a previous length exists (R178). -/
inductive Ctx where
  | zhdr
  | blkHdr
  | storedHdr
  | dynHdr
  | clLens (ncl : Nat)
  | clSym (t : Table) (noPrevious : Bool)
  | rawByte
  | llSym (t : Table)
  | dSym (t : Table)
  | ztrailer
  deriving DecidableEq, Repr

/-- The format a context reads. -/
def Ctx.format : Ctx → Format
  | .zhdr => .zhdr
  | .blkHdr => .blkHdr
  | .storedHdr => .storedHdr
  | .dynHdr => .dynHdr
  | .clLens _ => .clLens
  | .clSym _ _ => .clSym
  | .rawByte => .rawByte
  | .llSym _ => .llSym
  | .dSym _ => .dSym
  | .ztrailer => .ztrailer

/-- The format of an element (column "format" of spec/opcode_table.json). -/
def Instr.format : Instr → Format
  | .blkStored _ | .blkFixed _ | .blkDynamic _ | .blkReserved _ => .blkHdr
  | .storedHdr _ _ => .storedHdr
  | .rawByte _ => .rawByte
  | .dynHdr _ _ _ => .dynHdr
  | .clLens _ => .clLens
  | .clLen _ | .clCopy _ | .clZero3 _ | .clZero11 _ => .clSym
  | .lit _ | .eob | .len257 | .len258 | .len259 | .len260
  | .len261 | .len262 | .len263 | .len264 | .len265 _ | .len266 _
  | .len267 _ | .len268 _ | .len269 _ | .len270 _ | .len271 _ | .len272 _
  | .len273 _ | .len274 _ | .len275 _ | .len276 _ | .len277 _ | .len278 _
  | .len279 _ | .len280 _ | .len281 _ | .len282 _ | .len283 _ | .len284 _
  | .len285 | .llInvalid _ => .llSym
  | .dist0 | .dist1 | .dist2 | .dist3 | .dist4 _ | .dist5 _
  | .dist6 _ | .dist7 _ | .dist8 _ | .dist9 _ | .dist10 _ | .dist11 _
  | .dist12 _ | .dist13 _ | .dist14 _ | .dist15 _ | .dist16 _ | .dist17 _
  | .dist18 _ | .dist19 _ | .dist20 _ | .dist21 _ | .dist22 _ | .dist23 _
  | .dist24 _ | .dist25 _ | .dist26 _ | .dist27 _ | .dist28 _ | .dist29 _
  | .distInvalid _ => .dSym
  | .zhdr _ _ => .zhdr
  | .ztrailer _ => .ztrailer

end Sys2Proof
end

