-- ==== Sys2Proof/Machine/State.lean ====
section
/-! DEFINITION. The state of the block as plain data (10_state.md), its value after reset, and the reasons a step can stop. -/

namespace Sys2Proof.Machine

/-- A memory: cells at strictly rising addresses. An address with no cell holds no value the model knows
(log 5 for the window, log 6 for `IN`). -/
abbrev Mem := List Host.Cell

/-- The top-level sequencer state (R42, R266). -/
inductive Phase where
  | idle | zhdr | body | ztrailer | done | failed
  deriving DecidableEq, Repr

/-- The framing of a run: raw DEFLATE (0) or zlib (1) (R34, R42). -/
inductive Mode where
  | raw | zlib
  deriving DecidableEq, Repr

/-- The block state `bstate` (R23, R200). -/
inductive BState where
  | stored | fixed | dynamic | between
  deriving DecidableEq, Repr

/-- Where inside an engine step the block stands, with the temporaries of R44 that the rest of the step reads.
`settled` is between engine steps; each other constructor says which element of the same engine step is due next (R91). -/
inductive Mid where
  | settled
  /-- After BLK_STORED and ALIGN (R206). -/
  | storedHdr
  /-- After BLK_DYNAMIC (R208). -/
  | dynHdr
  /-- After DYNHDR (R174). -/
  | clLens (hlit hdist : BitVec 5) (hclen : BitVec 4)
  /-- In the code-length list (R177), with `cl_table` and `lens` so far. -/
  | clSyms (hlit hdist : BitVec 5) (clTable : Table) (lens : List (BitVec 4))
  /-- After a length symbol and its extra bits (R214). -/
  | dist (length : BitVec 9)
  deriving DecidableEq, Repr

/-- What IN_POS and STATUS bits 13:10 show: the values after the most recently completed engine step (R361; log 23). -/
structure Shown where
  inPos     : Nat
  bitIdx    : BitVec 3
  finalSeen : Bool
  deriving DecidableEq, Repr

/-- What the host can do at the interface (log 2). -/
inductive HostOp where
  /-- Nothing: the engine takes this step. -/
  | pass
  /-- Assert hardware reset (R350). -/
  | reset
  /-- Write `v` to CSR `n` (R34, R35). -/
  | writeCsr (n v : Nat)
  /-- Provide a new input, of which no byte is delivered yet (R354). -/
  | newInput
  /-- The source delivers its next bytes (R60, R81). -/
  | deliver (bytes : List Byte)
  /-- The source signals the end of the input (R60, R354). -/
  | endInput
  /-- The output sink becomes ready or not ready (R81, R356). -/
  | sink (ready : Bool)
  /-- Provide an empty output sink (R354). -/
  | newSink
  deriving DecidableEq, Repr

/-- Everything the spec gives the machine (10_state.md), and the model's own fields `mid`, `shown`, `fresh`, `hostOps`. -/
structure State where
  /-- The host's pending operations, oldest first (the model's own, log 2). -/
  hostOps      : List HostOp
  /-- `IN` (R60): the bytes the source has delivered, at their indices. -/
  input        : Mem
  /-- `N` (R60) once the end is signalled; until then the number of bytes delivered. -/
  inLen        : Nat
  /-- The source has signalled that it has no more bytes (R60, R81). -/
  inEnded      : Bool
  /-- `OUT` (R65, R66), oldest byte first. -/
  out          : List Byte
  /-- The output sink accepts a byte (R81, R356). -/
  sinkReady    : Bool
  /-- CSR 0 `CTRL.MODE` (R34). -/
  ctrlMode     : Mode
  /-- CSR 1 `START_OFF` (R35). -/
  startOff     : Nat
  /-- `phase` (R42). -/
  phase        : Phase
  /-- `mode` (R42). -/
  mode         : Mode
  /-- `err` (R43). -/
  err          : ErrCode
  /-- CSR 3 `END_POS` (R37). -/
  endPos       : Nat
  /-- CSR 7 `ZHDR` bits 7:0 (R41). -/
  cmf          : Byte
  /-- CSR 7 `ZHDR` bits 15:8 (R41). -/
  flg          : Byte
  /-- The input cursor: `in_pos`, `bit_idx`, `cur_byte` (R20 to R22). -/
  cur          : Cursor
  /-- `bstate` (R23). -/
  bstate       : BState
  /-- `final_seen` (R24). -/
  finalSeen    : Bool
  /-- `raw_remaining` (R25). -/
  rawRemaining : BitVec 16
  /-- `copy_len` (R26). -/
  copyLen      : BitVec 9
  /-- `copy_dist` (R27). -/
  copyDist     : BitVec 16
  /-- `wpos` (R28). -/
  wpos         : BitVec 16
  /-- `total_out`, CSR 4 (R29, R38). -/
  totalOut     : Nat
  /-- The history window (R63, R250). -/
  window       : Mem
  /-- `ll_table`, `none` where invalid (R31, R32). -/
  llTable      : Option Table
  /-- `dist_table`, `none` where invalid (R31, R32). -/
  distTable    : Option Table
  /-- `adler_a` (R39, R288). -/
  adlerA       : BitVec 16
  /-- `adler_b` (R39, R288). -/
  adlerB       : BitVec 16
  /-- The engine step in progress and its temporaries (R44). -/
  mid          : Mid
  /-- What the status registers show of the cursor and `final_seen` (the model's own, R361). -/
  shown        : Shown
  /-- Counter of free values (the model's own, log 3). -/
  fresh        : Nat
  deriving DecidableEq, Repr

/-- Why the machine stops with a fault. -/
inductive Fault where
  /-- A copy step reads a window cell that holds no value known to the model. Raised by the copy step only. Safe: no
  reachable state does (R254), and the model stops where the hardware would go on. -/
  | unwrittenCell
  /-- A symbol is due and the table it needs is invalid. Raised by `step` only. Safe: no reachable state does (R30, R32). -/
  | noTable
  deriving DecidableEq, Repr

/-- Why the machine refuses to go on. -/
inductive Refusal where
  /-- The instruction has no meaning in the model yet. Raised by `exec` only. Safe. -/
  | notModelled (mnemonic : String)
  /-- The element is not the one due in this state (R91), so the block never reads it here. Raised by the meanings. Safe:
  `step` offers only the element that is due (log 9). -/
  | notDue
  /-- `EAT_RAW` at a cursor that is not byte-aligned (R74, R360, U1). Raised by `step`. Safe: no reachable state does. -/
  | misalignedRaw
  /-- A table answers a symbol outside its alphabet (log 11). Raised by `step`. Safe: no table made by BUILD has one. -/
  | noSuchSymbol
  /-- The host changes the input or the sink of a run in progress, or delivers after the end (R79, R82, R358, U12).
  Raised by host operations. Safe: the spec makes it a precondition. -/
  | hostChangesRun
  /-- The host writes a CSR that does not exist (R34 to R41 give CSR 0 to 7). Raised by host operations. Safe. -/
  | noSuchCsr
  deriving DecidableEq, Repr

/-- The machine right after reset (R350 and the table of 10_state.md section 8). Values the spec does not give: `cur_byte`
(log 4), the window with nothing listed (log 5), the host's side (logs 2, 6, 8), `fresh` (log 3). -/
def State.reset : State where
  hostOps := []
  input := []
  inLen := 0
  inEnded := false
  out := []
  sinkReady := true
  ctrlMode := .raw
  startOff := 0
  phase := .idle
  mode := .raw
  err := .eNone
  endPos := 0
  cmf := 0#8
  flg := 0#8
  cur := ⟨0, 0#3, 0#8⟩
  bstate := .between
  finalSeen := false
  rawRemaining := 0#16
  copyLen := 0#9
  copyDist := 0#16
  wpos := 0#16
  totalOut := 0
  window := []
  llTable := none
  distTable := none
  adlerA := 1#16
  adlerB := 0#16
  mid := .settled
  shown := ⟨0, 0#3, false⟩
  fresh := 0

end Sys2Proof.Machine
end

