-- ==== Sys2Proof/Machine/Flags.lean ====
section
/-! DEFINITION. The status and checksum computations: the codes of phases, block states and errors, STATUS (R36), the Adler-32 sums (R288 to R290), the zlib header checks (R281 to R283). -/

namespace Sys2Proof.Machine

/-- The numeric code of an error (R310). -/
def errCode : ErrCode → BitVec 4
  | .eNone => 0#4
  | .eStoredLen => 1#4
  | .eHuffOverfull => 2#4
  | .eHuffIncomplete => 3#4
  | .eNoEob => 4#4
  | .eDynCounts => 5#4
  | .eBackref => 6#4
  | .eBtypeReserved => 7#4
  | .ePrematureEnd => 8#4
  | .eZlibMethod => 9#4
  | .eZlibFcheck => 10#4
  | .eZlibFdict => 11#4
  | .eZlibAdler => 12#4
  | .eBadSymbol => 13#4
  | .eDynRepeat => 14#4

/-- The numeric code of `phase` (R42). -/
def phaseCode : Phase → BitVec 3
  | .idle => 0#3
  | .zhdr => 1#3
  | .body => 2#3
  | .ztrailer => 3#3
  | .done => 4#3
  | .failed => 5#3

/-- The numeric code of `bstate` (R23). -/
def bstateCode : BState → BitVec 2
  | .stored => 0#2
  | .fixed => 1#2
  | .dynamic => 2#2
  | .between => 3#2

/-- The `bstate` of a code (R23). -/
def bstateOf (n : Nat) : BState :=
  if n % 4 = 0 then .stored else if n % 4 = 1 then .fixed else if n % 4 = 2 then .dynamic else .between

/-- `BUSY`: the phase is `ZHDR`, `BODY` or `ZTRAILER` (R36). -/
def Phase.busy : Phase → Bool
  | .zhdr | .body | .ztrailer => true
  | .idle | .done | .failed => false

/-- `DONE`: the phase is `DONE` or `FAILED` (R36). -/
def Phase.finished : Phase → Bool
  | .done | .failed => true
  | .idle | .zhdr | .body | .ztrailer => false

/-- CSR 2 `STATUS` (R36): `ERR` is 0 unless the phase is `FAILED`; bits 13:10 show the value after the last completed
engine step (R361). -/
def State.status (s : State) : BitVec 32 :=
  let err := if s.phase = .failed then errCode s.err else 0#4
  0#18 ++ s.shown.bitIdx ++ BitVec.ofBool s.shown.finalSeen ++ bstateCode s.bstate ++ err ++ 0#1
    ++ BitVec.ofBool (s.phase == .done) ++ BitVec.ofBool s.phase.finished ++ BitVec.ofBool s.phase.busy

/-- CSR 5 `ADLER` (R39, R290). -/
def State.adler (s : State) : BitVec 32 := s.adlerB ++ s.adlerA

/-- The next `adler_a` (R289). -/
def adlerNextA (a : BitVec 16) (x : Byte) : BitVec 16 := BitVec.ofNat 16 ((a.toNat + x.toNat) % Config.adlerMod)

/-- The next `adler_b`, from the `adler_a` just computed (R289). -/
def adlerNextB (b a : BitVec 16) : BitVec 16 := BitVec.ofNat 16 ((b.toNat + a.toNat) % Config.adlerMod)

/-- The first zlib header check that fails, in the order of R280: method, multiple of 31, dictionary flag. -/
def zhdrError (cmf flg : Byte) : Option ErrCode :=
  if cmf.toNat % 16 ≠ Config.zlibMethod then some .eZlibMethod
  else if (cmf.toNat * 256 + flg.toNat) % Config.zlibHdrMod ≠ 0 then some .eZlibFcheck
  else if flg.getLsbD 5 then some .eZlibFdict
  else none

end Sys2Proof.Machine
end

