-- ==== Sys2Proof/Machine/Operands.lean ====
section
/-! DEFINITION. Operand assembly (30_encoding.md R99, R100, R104): extra-bit counts, bases, header counts, the code-length order. -/

namespace Sys2Proof.Machine

/-- `CLORDER`: the order in which the code-length code lengths are sent (R96, R175). -/
def clOrder : List Nat := [16, 17, 18, 0, 8, 7, 9, 6, 10, 5, 11, 4, 12, 3, 13, 2, 14, 1, 15]

/-- `nlit` (R104, R174). -/
def nlit (hlit : BitVec 5) : Nat := hlit.toNat + 257
/-- `ndist` (R104, R174). -/
def ndist (hdist : BitVec 5) : Nat := hdist.toNat + 1
/-- `ncl` (R104, R174). -/
def ncl (hclen : BitVec 4) : Nat := hclen.toNat + 4

/-- `cl_len[0 .. 18]` from the fields in the order they are sent (R175): a symbol whose field is not sent has length 0. -/
def clLengths (fields : List (BitVec 3)) : List Nat :=
  (List.range 19).map fun s =>
    match (clOrder.zip fields).find? fun p => p.1 == s with
    | some p => p.2.toNat
    | none => 0

/-- The extra bits of a code-length symbol (R97). Symbol 16 with no previous length is an error as soon as it is decoded,
before its extra bits are read (R178, R324). -/
def clExtra (noPrevious : Bool) (sym : Nat) : Nat :=
  if sym = 16 then (if noPrevious then 0 else 2)
  else if sym = 17 then 3
  else if sym = 18 then 7
  else 0

/-- The extra bits of a literal/length symbol (R98, R99): none for literals, `EOB`, 257 to 264, 285 and the invalid symbols. -/
def llExtra (sym : Nat) : Nat :=
  if sym < 265 then 0 else if sym < 285 then (sym - 261) / 4 else 0

/-- The extra bits of a distance symbol (R100): none for 0 to 3 and for the invalid symbols (R238). -/
def distExtra (sym : Nat) : Nat :=
  if sym < 4 then 0 else if sym < 30 then sym / 2 - 1 else 0

/-- The base length of a length symbol (R99): direct for 257 to 264, banded for 265 to 284, fixed for 285. -/
def lengthBase (sym : Nat) : Nat :=
  if sym < 265 then sym - 254
  else if sym < 285 then 3 + (4 + (sym - 261) % 4) * 2 ^ ((sym - 261) / 4)
  else 258

/-- The base distance of a distance symbol (R100). -/
def distanceBase (sym : Nat) : Nat :=
  if sym < 4 then sym + 1 else 1 + (2 + sym % 2) * 2 ^ (sym / 2 - 1)

/-- A length operand: base plus extra bits, at the 9 bits of `copy_len` (R5, R99, R104). -/
def lengthOf {w : Nat} (base : Nat) (x : BitVec w) : BitVec 9 := BitVec.ofNat 9 (base + x.toNat)

/-- A distance operand: base plus extra bits, at the 16 bits of `copy_dist` (R5, R100, R104). -/
def distanceOf {w : Nat} (base : Nat) (x : BitVec w) : BitVec 16 := BitVec.ofNat 16 (base + x.toNat)

end Sys2Proof.Machine
end

