-- ==== Sys2Proof/Machine/Ops.lean ====
section
/-! DEFINITION. The named operations: memory cells, which element is due (R91), `raise` (R326), START (R265), reset (R350), PUSH (R251), the copy step (R252), completion (R268), CSR access. -/

namespace Sys2Proof.Machine

/-- The byte of a memory at an address; nothing where no cell lists the address. -/
def Mem.read : Mem → Nat → Option Byte
  | [], _ => none
  | (a, b) :: m, p => if a = p then some b else if p < a then none else Mem.read m p

/-- Store a byte, keeping the addresses strictly rising. -/
def Mem.write : Mem → Nat → Byte → Mem
  | [], p, v => [(p, v)]
  | (a, b) :: m, p, v =>
    if p < a then (p, v) :: (a, b) :: m
    else if p = a then (a, v) :: m
    else (a, b) :: Mem.write m p v

/-- Store consecutive bytes from an address on. -/
def Mem.writeBytes (m : Mem) (p : Nat) : List Byte → Mem
  | [] => m
  | b :: bs => Mem.writeBytes (m.write p b) (p + 1) bs

/-- The canonical form: strictly rising addresses. An unlisted address has no value, so no entry can equal it. -/
abbrev Mem.wf (m : Mem) : Prop := m.Pairwise fun x y => x.1 < y.1

/-- `IN[p]`: nothing where the source has no byte `p`, or has not delivered it (R60, R140). -/
def State.inByte (s : State) (p : Nat) : Option Byte := if p < s.inLen then s.input.read p else none

/-- The input cursor of a state as a source of bits. -/
def State.source (s : State) : Source Cursor := cursorSource s.inByte

/-- What the block works on next (R91, R202, R266). -/
inductive Point where
  /-- Phase `IDLE`, `DONE` or `FAILED`: the block does nothing. -/
  | idle
  /-- An element of this format is due. -/
  | element (f : Format)
  /-- A copy is in progress (R211, R252). -/
  | copy
  /-- The end of the DEFLATE body (R204). -/
  | bodyEnd
  deriving DecidableEq, Repr

/-- What is due between engine steps in phase `BODY` (R202). -/
def State.bodyPoint (s : State) : Point :=
  match s.bstate with
  | .between => if s.finalSeen then .bodyEnd else .element .blkHdr
  | .stored => .element .rawByte
  | .fixed | .dynamic => if s.copyLen = 0#9 then .element .llSym else .copy

/-- The table of R91: which element the cursor points at. -/
def State.point (s : State) : Point :=
  match s.phase with
  | .idle | .done | .failed => .idle
  | .zhdr => .element .zhdr
  | .ztrailer => .element .ztrailer
  | .body =>
    match s.mid with
    | .settled => s.bodyPoint
    | .storedHdr => .element .storedHdr
    | .dynHdr => .element .dynHdr
    | .clLens _ _ _ => .element .clLens
    | .clSyms _ _ _ _ => .element .clSym
    | .dist _ => .element .dSym

/-- What a decoder is told about an element that is due: nothing where the table it needs is invalid. -/
def State.ctx (s : State) : Format → Option Ctx
  | .zhdr => some .zhdr
  | .blkHdr => some .blkHdr
  | .storedHdr => some .storedHdr
  | .dynHdr => some .dynHdr
  | .clLens =>
    match s.mid with
    | .clLens _ _ hclen => some (.clLens (ncl hclen))
    | _ => none
  | .clSym =>
    match s.mid with
    | .clSyms _ _ t lens => some (.clSym t lens.isEmpty)
    | _ => none
  | .rawByte => some .rawByte
  | .llSym => s.llTable.map .llSym
  | .dSym => s.distTable.map .dSym
  | .ztrailer => some .ztrailer

/-- A meaning's context check: the effect where an element of the format is due, a refusal elsewhere (R91, log 9). -/
def State.whenDue (s : State) (f : Format) (effect : Host.Outcome State Fault Refusal) : Host.Outcome State Fault Refusal :=
  if s.point = .element f then effect else .refused .notDue

/-- The end of an engine step: no temporaries are left, and the status registers show the new values (R44, R361). -/
def State.settle (s : State) : State :=
  { s with mid := .settled, shown := ⟨s.cur.inPos, s.cur.bitIdx, s.finalSeen⟩ }

/-- The cursor after a failed run: unspecified (R326, U9; log 3). -/
def freeCursor (n : Nat) : Cursor :=
  ⟨Config.freeNat 0 n, BitVec.ofNat 3 (Config.freeNat 1 n), BitVec.ofNat 8 (Config.freeNat 2 n)⟩

/-- `raise E` (R326). `err` and the phase are written and the step is abandoned; `END_POS`, `OUT`, `TOTAL_OUT` and `ADLER`
keep their values; the engine registers, the cursor, the tables and CSR `ZHDR` hold free values (log 3) and the window holds no
value the model knows (log 5). -/
def State.raise (s : State) (e : ErrCode) : State :=
  State.settle { s with
    err := e
    phase := .failed
    cur := freeCursor s.fresh
    bstate := bstateOf (Config.freeNat 3 s.fresh)
    finalSeen := Config.freeNat 4 s.fresh % 2 == 1
    rawRemaining := BitVec.ofNat 16 (Config.freeNat 5 s.fresh)
    copyLen := BitVec.ofNat 9 (Config.freeNat 6 s.fresh)
    copyDist := BitVec.ofNat 16 (Config.freeNat 7 s.fresh)
    wpos := BitVec.ofNat 16 (Config.freeNat 8 s.fresh)
    cmf := BitVec.ofNat 8 (Config.freeNat 9 s.fresh)
    flg := BitVec.ofNat 8 (Config.freeNat 10 s.fresh)
    llTable := Config.freeTable 0 s.fresh
    distTable := Config.freeTable 1 s.fresh
    window := []
    fresh := s.fresh + 1 }

/-- The values START loads into the engine registers (R265, R352). `cur_byte` is not among R265's writes and has no reset value to
reload: the model keeps the byte an earlier run left there (log 4). -/
def State.loadEngine (s : State) (inPos : Nat) : State :=
  State.settle { s with
    cur := { s.cur with inPos := inPos, bitIdx := 0#3 }
    bstate := .between
    finalSeen := false
    rawRemaining := 0#16
    copyLen := 0#9
    copyDist := 0#16
    wpos := 0#16
    totalOut := 0
    llTable := none
    distTable := none
    adlerA := 1#16
    adlerB := 0#16
    err := .eNone
    endPos := 0
    cmf := 0#8
    flg := 0#8 }

/-- `START` (R265): ignored while the block is busy (R266, D31). -/
def State.start (s : State) : State :=
  if s.phase.busy then s
  else
    { s.loadEngine s.startOff with
      mode := s.ctrlMode
      phase := match s.ctrlMode with | .zlib => .zhdr | .raw => .body }

/-- Hardware reset (R350): every register at its reset value. `IN`, `OUT`, the sink and the pending operations are the host's. -/
def State.hardReset (s : State) : State :=
  { State.reset with
    hostOps := s.hostOps
    input := s.input
    inLen := s.inLen
    inEnded := s.inEnded
    out := s.out
    sinkReady := s.sinkReady
    fresh := s.fresh }

/-- `PUSH(b)` (R251): window, `wpos`, `total_out`, both sums, `Emit`. -/
def State.push (s : State) (b : Byte) : State :=
  { s with
    window := s.window.write s.wpos.toNat b
    wpos := s.wpos + 1#16
    totalOut := s.totalOut + 1
    adlerA := adlerNextA s.adlerA b
    adlerB := adlerNextB s.adlerB (adlerNextA s.adlerA b)
    out := s.out ++ [b] }

/-- The window index a copy step reads: `(wpos - copy_dist) & 0xFFFF`, with the `wpos` before the step's PUSH (R252). -/
def State.copyAddr (s : State) : Nat := (s.wpos - s.copyDist).toNat

/-- The copy step (R252). A cell with no known value faults; no reachable state reads one (R254, log 5). -/
def State.copyStep (s : State) : Host.Outcome State Fault Refusal :=
  match s.window.read s.copyAddr with
  | none => .fault .unwrittenCell
  | some b => .next (State.settle { s.push b with copyLen := s.copyLen - 1#9 })

/-- `END` and the completion of the body (R204, R268): align, then `DONE` (raw) or the trailer (zlib). -/
def State.finishBody (s : State) : State :=
  match s.mode with
  | .raw => State.settle { s with cur := s.cur.align, endPos := s.cur.inPos, phase := .done }
  | .zlib => State.settle { s with cur := s.cur.align, phase := .ztrailer }

/-- A write of CSR `n` (R34, R35, R361): `CTRL` takes MODE, then START if bit 0 is set (log 16); CSR 2 to 7 are read-only,
so a write changes nothing (log 15). -/
def State.writeCsr (s : State) (n v : Nat) : Host.Outcome State Fault Refusal :=
  if n = 0 then
    let s1 := { s with ctrlMode := if v / 2 % 2 = 1 then .zlib else .raw }
    .next (if v % 2 = 1 then s1.start else s1)
  else if n = 1 then .next { s with startOff := v }
  else if n < 8 then .next s
  else .refused .noSuchCsr

/-- A read of CSR `n` (R34 to R41, R361): no side effect. -/
def State.readCsr (s : State) (n : Nat) : Option Nat :=
  match n with
  | 0 => some (match s.ctrlMode with | .raw => 0 | .zlib => 2)
  | 1 => some s.startOff
  | 2 => some s.status.toNat
  | 3 => some s.endPos
  | 4 => some s.totalOut
  | 5 => some s.adler.toNat
  | 6 => some s.shown.inPos
  | 7 => some (s.flg ++ s.cmf).toNat
  | _ => none

/-- One operation of the host (log 2): what it does to the state. -/
def State.hostAct (s : State) : HostOp → Host.Outcome State Fault Refusal
  | .pass => .next s
  | .reset => .next s.hardReset
  | .writeCsr n v => s.writeCsr n v
  | .newInput =>
    if s.phase.busy then .refused .hostChangesRun
    else .next { s with input := [], inLen := 0, inEnded := false }
  | .deliver bytes =>
    if s.inEnded then .refused .hostChangesRun
    else .next { s with input := Mem.writeBytes s.input s.inLen bytes, inLen := s.inLen + bytes.length }
  | .endInput => .next { s with inEnded := true }
  | .sink ready => .next { s with sinkReady := ready }
  | .newSink =>
    if s.phase.busy then .refused .hostChangesRun
    else .next { s with out := [] }

end Sys2Proof.Machine
end

