-- ==== Sys2Proof/Machine/Block.lean ====
section
/-! DEFINITION. Family block_state_machine, block headers and stored blocks (42_block_engine.md R205 to R210). -/

namespace Sys2Proof.Machine

/-- BLK_STORED (R205, R206): `final_seen`, then ALIGN; STORED_HDR is the next element of the same engine step. -/
def execBlkStored (bfinal : Bool) (s : State) : Host.Outcome State Fault Refusal :=
  s.whenDue .blkHdr (.next { s with finalSeen := bfinal, cur := s.cur.align, mid := .storedHdr })

/-- BLK_FIXED (R205, R207): install the fixed tables. -/
def execBlkFixed (bfinal : Bool) (s : State) : Host.Outcome State Fault Refusal :=
  s.whenDue .blkHdr (.next (State.settle
    { s with finalSeen := bfinal, llTable := some fixedLL, distTable := some fixedD, bstate := .fixed }))

/-- BLK_DYNAMIC (R205, R208): DYNHDR is the next element of the same engine step. -/
def execBlkDynamic (bfinal : Bool) (s : State) : Host.Outcome State Fault Refusal :=
  s.whenDue .blkHdr (.next { s with finalSeen := bfinal, mid := .dynHdr })

/-- BLK_RESERVED (R205, R209): `E_BTYPE_RESERVED`, whatever BFINAL is. -/
def execBlkReserved (bfinal : Bool) (s : State) : Host.Outcome State Fault Refusal :=
  s.whenDue .blkHdr (.next ({ s with finalSeen := bfinal }.raise .eBtypeReserved))

/-- STORED_HDR (R206): the complement check; an empty block stays between blocks (D8). -/
def execStoredHdr (len nlen : BitVec 16) (s : State) : Host.Outcome State Fault Refusal :=
  s.whenDue .storedHdr (.next
    (if nlen ≠ ~~~len then s.raise .eStoredLen
    else State.settle { s with rawRemaining := len, bstate := if len = 0#16 then .between else .stored }))

/-- RAWBYTE (R210): the byte is emitted and counted off; at zero the block ends. -/
def execRawByte (b : Byte) (s : State) : Host.Outcome State Fault Refusal :=
  s.whenDue .rawByte (.next (State.settle
    { s.push b with
      rawRemaining := s.rawRemaining - 1#16
      bstate := if s.rawRemaining - 1#16 = 0#16 then .between else s.bstate }))

end Sys2Proof.Machine
end

