-- ==== Sys2Proof/Machine/Dynamic.lean ====
section
/-! DEFINITION. Family canonical_huffman_decoder, the description of dynamic tables (41_huffman_tables.md R174 to R184). -/

namespace Sys2Proof.Machine

/-- DYNHDR (R174): the three counts; CLLENS is the next element. -/
def execDynHdr (hlit hdist : BitVec 5) (hclen : BitVec 4) (s : State) : Host.Outcome State Fault Refusal :=
  s.whenDue .dynHdr (.next { s with mid := .clLens hlit hdist hclen })

/-- CLLENS (R175, R176): `cl_len`, then the code-length table. The element has as many fields as DYNHDR announced. -/
def execClLens (lens : List (BitVec 3)) (s : State) : Host.Outcome State Fault Refusal :=
  match s.mid with
  | .clLens hlit hdist hclen =>
    if lens.length = ncl hclen then
      s.whenDue .clLens (.next (match build (clLengths lens) false with
        | .error e => s.raise e
        | .ok t => { s with mid := .clSyms hlit hdist t [] }))
    else .refused .notDue
  | _ => .refused .notDue

/-- The end of the code-length list (R181 to R184): count check, end-of-block check, literal/length table, distance
table, in that order; then the block is open. -/
def State.finishLens (s : State) (hlit hdist : BitVec 5) (lens : List (BitVec 4)) : State :=
  let all := lens.map BitVec.toNat
  if lens.length ≠ nlit hlit + ndist hdist then s.raise .eDynCounts
  else if (all.take (nlit hlit)).getD Config.eobSym 0 = 0 then s.raise .eNoEob
  else match build (all.take (nlit hlit)) false with
    | .error e => s.raise e
    | .ok ll => match build (all.drop (nlit hlit)) true with
      | .error e => s.raise e
      | .ok d => State.settle { s with llTable := some ll, distTable := some d, bstate := .dynamic }

/-- What a code-length symbol does with the lengths it produces from the list so far (R177): append them, and end the list
as soon as it is long enough. `produce` answers nothing where there is no previous length (R178). -/
def State.codeLengths (s : State) (produce : List (BitVec 4) → Option (List (BitVec 4))) : Host.Outcome State Fault Refusal :=
  match s.mid with
  | .clSyms hlit hdist t lens =>
    s.whenDue .clSym (.next (match produce lens with
      | none => s.raise .eDynRepeat
      | some new =>
        if (lens ++ new).length < nlit hlit + ndist hdist then { s with mid := .clSyms hlit hdist t (lens ++ new) }
        else s.finishLens hlit hdist (lens ++ new)))
  | _ => .refused .notDue

/-- CL_LEN (R177): the symbol is the next code length. -/
def execClLen (len : BitVec 4) (s : State) : Host.Outcome State Fault Refusal :=
  s.codeLengths fun _ => some [len]

/-- CL_COPY (R178): 3 to 6 copies of the previous length. -/
def execClCopy (x : BitVec 2) (s : State) : Host.Outcome State Fault Refusal :=
  s.codeLengths fun lens => lens.getLast?.map fun l => List.replicate (3 + x.toNat) l

/-- CL_ZERO3 (R179): 3 to 10 zeros. -/
def execClZero3 (x : BitVec 3) (s : State) : Host.Outcome State Fault Refusal :=
  s.codeLengths fun _ => some (List.replicate (3 + x.toNat) 0#4)

/-- CL_ZERO11 (R180): 11 to 138 zeros. -/
def execClZero11 (x : BitVec 7) (s : State) : Host.Outcome State Fault Refusal :=
  s.codeLengths fun _ => some (List.replicate (11 + x.toNat) 0#4)

end Sys2Proof.Machine
end

