-- ==== Sys2Proof/Machine/Symbols.lean ====
section
/-! DEFINITION. Families block_state_machine and lz77_history_window_engine, the literal/length and distance symbols (42_block_engine.md R211 to R239). -/

namespace Sys2Proof.Machine

/-- A length symbol (R214): the length is kept for the distance symbol, the next element of the same engine step. -/
def State.lengthSymbol (s : State) (length : BitVec 9) : Host.Outcome State Fault Refusal :=
  s.whenDue .llSym (.next { s with mid := .dist length })

/-- A distance symbol with the length that awaits it: the back-reference check and the start of the copy (R239). -/
def State.startCopy (s : State) (length : BitVec 9) (distance : BitVec 16) : State :=
  if length = 0#9 ∨ distance = 0#16 ∨ s.totalOut < distance.toNat then s.raise .eBackref
  else State.settle { s with copyLen := length, copyDist := distance }

/-- A distance symbol (R223, R239). -/
def State.distanceSymbol (s : State) (distance : BitVec 16) : Host.Outcome State Fault Refusal :=
  match s.mid with
  | .dist length => s.whenDue .dSym (.next (s.startCopy length distance))
  | _ => .refused .notDue

/-- LIT (R212): the byte is emitted. -/
def execLit (b : Byte) (s : State) : Host.Outcome State Fault Refusal :=
  s.whenDue .llSym (.next (State.settle (s.push b)))

/-- EOB (R213): back to between-blocks, the tables dropped. -/
def execEob (s : State) : Host.Outcome State Fault Refusal :=
  s.whenDue .llSym (.next (State.settle { s with bstate := .between, llTable := none, distTable := none }))

/-- LEN257 (R215). -/
def execLen257 (s : State) : Host.Outcome State Fault Refusal := s.lengthSymbol 3#9

/-- LEN258 (R215). -/
def execLen258 (s : State) : Host.Outcome State Fault Refusal := s.lengthSymbol 4#9

/-- LEN259 (R215). -/
def execLen259 (s : State) : Host.Outcome State Fault Refusal := s.lengthSymbol 5#9

/-- LEN260 (R215). -/
def execLen260 (s : State) : Host.Outcome State Fault Refusal := s.lengthSymbol 6#9

/-- LEN261 (R215). -/
def execLen261 (s : State) : Host.Outcome State Fault Refusal := s.lengthSymbol 7#9

/-- LEN262 (R215). -/
def execLen262 (s : State) : Host.Outcome State Fault Refusal := s.lengthSymbol 8#9

/-- LEN263 (R215). -/
def execLen263 (s : State) : Host.Outcome State Fault Refusal := s.lengthSymbol 9#9

/-- LEN264 (R215). -/
def execLen264 (s : State) : Host.Outcome State Fault Refusal := s.lengthSymbol 10#9

/-- LEN265 (R216). -/
def execLen265 (x : BitVec 1) (s : State) : Host.Outcome State Fault Refusal := s.lengthSymbol (lengthOf 11 x)

/-- LEN266 (R216). -/
def execLen266 (x : BitVec 1) (s : State) : Host.Outcome State Fault Refusal := s.lengthSymbol (lengthOf 13 x)

/-- LEN267 (R216). -/
def execLen267 (x : BitVec 1) (s : State) : Host.Outcome State Fault Refusal := s.lengthSymbol (lengthOf 15 x)

/-- LEN268 (R216). -/
def execLen268 (x : BitVec 1) (s : State) : Host.Outcome State Fault Refusal := s.lengthSymbol (lengthOf 17 x)

/-- LEN269 (R217). -/
def execLen269 (x : BitVec 2) (s : State) : Host.Outcome State Fault Refusal := s.lengthSymbol (lengthOf 19 x)

/-- LEN270 (R217). -/
def execLen270 (x : BitVec 2) (s : State) : Host.Outcome State Fault Refusal := s.lengthSymbol (lengthOf 23 x)

/-- LEN271 (R217). -/
def execLen271 (x : BitVec 2) (s : State) : Host.Outcome State Fault Refusal := s.lengthSymbol (lengthOf 27 x)

/-- LEN272 (R217). -/
def execLen272 (x : BitVec 2) (s : State) : Host.Outcome State Fault Refusal := s.lengthSymbol (lengthOf 31 x)

/-- LEN273 (R218). -/
def execLen273 (x : BitVec 3) (s : State) : Host.Outcome State Fault Refusal := s.lengthSymbol (lengthOf 35 x)

/-- LEN274 (R218). -/
def execLen274 (x : BitVec 3) (s : State) : Host.Outcome State Fault Refusal := s.lengthSymbol (lengthOf 43 x)

/-- LEN275 (R218). -/
def execLen275 (x : BitVec 3) (s : State) : Host.Outcome State Fault Refusal := s.lengthSymbol (lengthOf 51 x)

/-- LEN276 (R218). -/
def execLen276 (x : BitVec 3) (s : State) : Host.Outcome State Fault Refusal := s.lengthSymbol (lengthOf 59 x)

/-- LEN277 (R219). -/
def execLen277 (x : BitVec 4) (s : State) : Host.Outcome State Fault Refusal := s.lengthSymbol (lengthOf 67 x)

/-- LEN278 (R219). -/
def execLen278 (x : BitVec 4) (s : State) : Host.Outcome State Fault Refusal := s.lengthSymbol (lengthOf 83 x)

/-- LEN279 (R219). -/
def execLen279 (x : BitVec 4) (s : State) : Host.Outcome State Fault Refusal := s.lengthSymbol (lengthOf 99 x)

/-- LEN280 (R219). -/
def execLen280 (x : BitVec 4) (s : State) : Host.Outcome State Fault Refusal := s.lengthSymbol (lengthOf 115 x)

/-- LEN281 (R220). -/
def execLen281 (x : BitVec 5) (s : State) : Host.Outcome State Fault Refusal := s.lengthSymbol (lengthOf 131 x)

/-- LEN282 (R220). -/
def execLen282 (x : BitVec 5) (s : State) : Host.Outcome State Fault Refusal := s.lengthSymbol (lengthOf 163 x)

/-- LEN283 (R220). -/
def execLen283 (x : BitVec 5) (s : State) : Host.Outcome State Fault Refusal := s.lengthSymbol (lengthOf 195 x)

/-- LEN284 (R220). -/
def execLen284 (x : BitVec 5) (s : State) : Host.Outcome State Fault Refusal := s.lengthSymbol (lengthOf 227 x)

/-- LEN285 (R221). -/
def execLen285 (s : State) : Host.Outcome State Fault Refusal := s.lengthSymbol 258#9

/-- LL_INVALID (R222): `E_BAD_SYMBOL`, for symbol 286 (`b0` = 0) and for 287. -/
def execLlInvalid (_b0 : BitVec 1) (s : State) : Host.Outcome State Fault Refusal :=
  s.whenDue .llSym (.next (s.raise .eBadSymbol))

/-- DIST0 (R224). -/
def execDist0 (s : State) : Host.Outcome State Fault Refusal := s.distanceSymbol 1#16

/-- DIST1 (R224). -/
def execDist1 (s : State) : Host.Outcome State Fault Refusal := s.distanceSymbol 2#16

/-- DIST2 (R224). -/
def execDist2 (s : State) : Host.Outcome State Fault Refusal := s.distanceSymbol 3#16

/-- DIST3 (R224). -/
def execDist3 (s : State) : Host.Outcome State Fault Refusal := s.distanceSymbol 4#16

/-- DIST4 (R225). -/
def execDist4 (x : BitVec 1) (s : State) : Host.Outcome State Fault Refusal := s.distanceSymbol (distanceOf 5 x)

/-- DIST5 (R225). -/
def execDist5 (x : BitVec 1) (s : State) : Host.Outcome State Fault Refusal := s.distanceSymbol (distanceOf 7 x)

/-- DIST6 (R226). -/
def execDist6 (x : BitVec 2) (s : State) : Host.Outcome State Fault Refusal := s.distanceSymbol (distanceOf 9 x)

/-- DIST7 (R226). -/
def execDist7 (x : BitVec 2) (s : State) : Host.Outcome State Fault Refusal := s.distanceSymbol (distanceOf 13 x)

/-- DIST8 (R227). -/
def execDist8 (x : BitVec 3) (s : State) : Host.Outcome State Fault Refusal := s.distanceSymbol (distanceOf 17 x)

/-- DIST9 (R227). -/
def execDist9 (x : BitVec 3) (s : State) : Host.Outcome State Fault Refusal := s.distanceSymbol (distanceOf 25 x)

/-- DIST10 (R228). -/
def execDist10 (x : BitVec 4) (s : State) : Host.Outcome State Fault Refusal := s.distanceSymbol (distanceOf 33 x)

/-- DIST11 (R228). -/
def execDist11 (x : BitVec 4) (s : State) : Host.Outcome State Fault Refusal := s.distanceSymbol (distanceOf 49 x)

/-- DIST12 (R229). -/
def execDist12 (x : BitVec 5) (s : State) : Host.Outcome State Fault Refusal := s.distanceSymbol (distanceOf 65 x)

/-- DIST13 (R229). -/
def execDist13 (x : BitVec 5) (s : State) : Host.Outcome State Fault Refusal := s.distanceSymbol (distanceOf 97 x)

/-- DIST14 (R230). -/
def execDist14 (x : BitVec 6) (s : State) : Host.Outcome State Fault Refusal := s.distanceSymbol (distanceOf 129 x)

/-- DIST15 (R230). -/
def execDist15 (x : BitVec 6) (s : State) : Host.Outcome State Fault Refusal := s.distanceSymbol (distanceOf 193 x)

/-- DIST16 (R231). -/
def execDist16 (x : BitVec 7) (s : State) : Host.Outcome State Fault Refusal := s.distanceSymbol (distanceOf 257 x)

/-- DIST17 (R231). -/
def execDist17 (x : BitVec 7) (s : State) : Host.Outcome State Fault Refusal := s.distanceSymbol (distanceOf 385 x)

/-- DIST18 (R232). -/
def execDist18 (x : BitVec 8) (s : State) : Host.Outcome State Fault Refusal := s.distanceSymbol (distanceOf 513 x)

/-- DIST19 (R232). -/
def execDist19 (x : BitVec 8) (s : State) : Host.Outcome State Fault Refusal := s.distanceSymbol (distanceOf 769 x)

/-- DIST20 (R233). -/
def execDist20 (x : BitVec 9) (s : State) : Host.Outcome State Fault Refusal := s.distanceSymbol (distanceOf 1025 x)

/-- DIST21 (R233). -/
def execDist21 (x : BitVec 9) (s : State) : Host.Outcome State Fault Refusal := s.distanceSymbol (distanceOf 1537 x)

/-- DIST22 (R234). -/
def execDist22 (x : BitVec 10) (s : State) : Host.Outcome State Fault Refusal := s.distanceSymbol (distanceOf 2049 x)

/-- DIST23 (R234). -/
def execDist23 (x : BitVec 10) (s : State) : Host.Outcome State Fault Refusal := s.distanceSymbol (distanceOf 3073 x)

/-- DIST24 (R235). -/
def execDist24 (x : BitVec 11) (s : State) : Host.Outcome State Fault Refusal := s.distanceSymbol (distanceOf 4097 x)

/-- DIST25 (R235). -/
def execDist25 (x : BitVec 11) (s : State) : Host.Outcome State Fault Refusal := s.distanceSymbol (distanceOf 6145 x)

/-- DIST26 (R236). -/
def execDist26 (x : BitVec 12) (s : State) : Host.Outcome State Fault Refusal := s.distanceSymbol (distanceOf 8193 x)

/-- DIST27 (R236). -/
def execDist27 (x : BitVec 12) (s : State) : Host.Outcome State Fault Refusal := s.distanceSymbol (distanceOf 12289 x)

/-- DIST28 (R237). -/
def execDist28 (x : BitVec 13) (s : State) : Host.Outcome State Fault Refusal := s.distanceSymbol (distanceOf 16385 x)

/-- DIST29 (R237). -/
def execDist29 (x : BitVec 13) (s : State) : Host.Outcome State Fault Refusal := s.distanceSymbol (distanceOf 24577 x)

/-- DIST_INVALID (R238): `E_BAD_SYMBOL`, for symbol 30 (`b0` = 0) and for 31. -/
def execDistInvalid (_b0 : BitVec 1) (s : State) : Host.Outcome State Fault Refusal :=
  s.whenDue .dSym (.next (s.raise .eBadSymbol))

end Sys2Proof.Machine
end

