-- ==== Sys2Proof/Machine/Zlib.lean ====
section
/-! DEFINITION. Family zlib_framer_adler32_check (45_zlib_framer.md R280 to R287, R292). -/

namespace Sys2Proof.Machine

/-- ZHDR (R280): CSR `ZHDR`, then the three checks in order; the body is next. -/
def execZhdr (cmf flg : Byte) (s : State) : Host.Outcome State Fault Refusal :=
  s.whenDue .zhdr (.next (match zhdrError cmf flg with
    | some e => { s with cmf := cmf, flg := flg }.raise e
    | none => State.settle { s with cmf := cmf, flg := flg, phase := .body }))

/-- ZTRAILER (R286, R287, R292): the comparison with `ADLER`; `END_POS` is the byte after the trailer. -/
def execZtrailer (expected : BitVec 32) (s : State) : Host.Outcome State Fault Refusal :=
  s.whenDue .ztrailer (.next
    (if expected ≠ s.adler then s.raise .eZlibAdler
    else State.settle { s with endPos := s.cur.inPos, phase := .done }))

end Sys2Proof.Machine
end

