-- ==== Sys2Proof/WellFormed.lean ====
section
/-! DEFINITION. Which terms of `Instr` an encoding can carry. -/

namespace Sys2Proof

/-- CLLENS carries `ncl` = HCLEN + 4 lengths, 4 to 19 (R95, R96); every other operand's width is in its type. -/
def Instr.wellFormed : Instr → Bool
  | .clLens lens => 4 ≤ lens.length && lens.length ≤ 19
  | _ => true

/-- `Instr.wellFormed` as a proposition. -/
abbrev Instr.WellFormed (i : Instr) : Prop := i.wellFormed = true

end Sys2Proof
end

