-- ==== Sys2Proof/Decode.lean ====
section
/-! DEFINITION. The decoder: from any source of bits and a context to an element, or the reason there is none; after it the encoder; then the words of the opcode table. -/

namespace Sys2Proof

open Sys2Proof.Machine

/-- What a decoder answers. -/
inductive Decoded (σ : Type) where
  /-- An element, and the source after it. -/
  | elem (i : Instr) (rest : σ)
  /-- The source ran out inside the element (R147). -/
  | short
  /-- `DECODE` on the empty table, before any bit is read (R173). -/
  | emptyTable
  /-- A symbol outside the format's alphabet; no table made by BUILD for that alphabet has one. -/
  | noSuchSymbol (sym : Nat)

variable {σ : Type}

/-- The block header element of a BTYPE (R93, R205). -/
def blkInstr (bfinal btype : Nat) : Instr :=
  if btype = 0 then .blkStored (bfinal == 1)
  else if btype = 1 then .blkFixed (bfinal == 1)
  else if btype = 2 then .blkDynamic (bfinal == 1)
  else .blkReserved (bfinal == 1)

/-- The code-length element of a symbol and the value of its extra bits (R97, R177). -/
def clInstr (sym x : Nat) : Option Instr :=
  if sym < 16 then some (.clLen (BitVec.ofNat 4 sym))
  else if sym = 16 then some (.clCopy (BitVec.ofNat 2 x))
  else if sym = 17 then some (.clZero3 (BitVec.ofNat 3 x))
  else if sym = 18 then some (.clZero11 (BitVec.ofNat 7 x))
  else none

/-- The literal/length element of a symbol and the value of its extra bits (R98, R211). -/
def llInstr (sym x : Nat) : Option Instr :=
  if sym < 256 then some (.lit (BitVec.ofNat 8 sym))
  else match sym with
  | 256 => some .eob
  | 257 => some .len257
  | 258 => some .len258
  | 259 => some .len259
  | 260 => some .len260
  | 261 => some .len261
  | 262 => some .len262
  | 263 => some .len263
  | 264 => some .len264
  | 265 => some (.len265 (BitVec.ofNat 1 x))
  | 266 => some (.len266 (BitVec.ofNat 1 x))
  | 267 => some (.len267 (BitVec.ofNat 1 x))
  | 268 => some (.len268 (BitVec.ofNat 1 x))
  | 269 => some (.len269 (BitVec.ofNat 2 x))
  | 270 => some (.len270 (BitVec.ofNat 2 x))
  | 271 => some (.len271 (BitVec.ofNat 2 x))
  | 272 => some (.len272 (BitVec.ofNat 2 x))
  | 273 => some (.len273 (BitVec.ofNat 3 x))
  | 274 => some (.len274 (BitVec.ofNat 3 x))
  | 275 => some (.len275 (BitVec.ofNat 3 x))
  | 276 => some (.len276 (BitVec.ofNat 3 x))
  | 277 => some (.len277 (BitVec.ofNat 4 x))
  | 278 => some (.len278 (BitVec.ofNat 4 x))
  | 279 => some (.len279 (BitVec.ofNat 4 x))
  | 280 => some (.len280 (BitVec.ofNat 4 x))
  | 281 => some (.len281 (BitVec.ofNat 5 x))
  | 282 => some (.len282 (BitVec.ofNat 5 x))
  | 283 => some (.len283 (BitVec.ofNat 5 x))
  | 284 => some (.len284 (BitVec.ofNat 5 x))
  | 285 => some .len285
  | 286 => some (.llInvalid 0#1)
  | 287 => some (.llInvalid 1#1)
  | _ => none

/-- The distance element of a symbol and the value of its extra bits (R100, R223). -/
def dInstr (sym x : Nat) : Option Instr :=
  match sym with
  | 0 => some .dist0
  | 1 => some .dist1
  | 2 => some .dist2
  | 3 => some .dist3
  | 4 => some (.dist4 (BitVec.ofNat 1 x))
  | 5 => some (.dist5 (BitVec.ofNat 1 x))
  | 6 => some (.dist6 (BitVec.ofNat 2 x))
  | 7 => some (.dist7 (BitVec.ofNat 2 x))
  | 8 => some (.dist8 (BitVec.ofNat 3 x))
  | 9 => some (.dist9 (BitVec.ofNat 3 x))
  | 10 => some (.dist10 (BitVec.ofNat 4 x))
  | 11 => some (.dist11 (BitVec.ofNat 4 x))
  | 12 => some (.dist12 (BitVec.ofNat 5 x))
  | 13 => some (.dist13 (BitVec.ofNat 5 x))
  | 14 => some (.dist14 (BitVec.ofNat 6 x))
  | 15 => some (.dist15 (BitVec.ofNat 6 x))
  | 16 => some (.dist16 (BitVec.ofNat 7 x))
  | 17 => some (.dist17 (BitVec.ofNat 7 x))
  | 18 => some (.dist18 (BitVec.ofNat 8 x))
  | 19 => some (.dist19 (BitVec.ofNat 8 x))
  | 20 => some (.dist20 (BitVec.ofNat 9 x))
  | 21 => some (.dist21 (BitVec.ofNat 9 x))
  | 22 => some (.dist22 (BitVec.ofNat 10 x))
  | 23 => some (.dist23 (BitVec.ofNat 10 x))
  | 24 => some (.dist24 (BitVec.ofNat 11 x))
  | 25 => some (.dist25 (BitVec.ofNat 11 x))
  | 26 => some (.dist26 (BitVec.ofNat 12 x))
  | 27 => some (.dist27 (BitVec.ofNat 12 x))
  | 28 => some (.dist28 (BitVec.ofNat 13 x))
  | 29 => some (.dist29 (BitVec.ofNat 13 x))
  | 30 => some (.distInvalid 0#1)
  | 31 => some (.distInvalid 1#1)
  | _ => none

/-- A Huffman-coded element: the symbol by `DECODE`, then its extra bits (R92). -/
def decodeCoded (src : Source σ) (t : Table) (extra : Nat → Nat) (instr : Nat → Nat → Option Instr) (s : σ) : Decoded σ :=
  if t.isEmpty then .emptyTable
  else match decodeSym src t s with
    | none => .short
    | some (sym, s1) =>
      match eatBits src (extra sym) s1 with
      | none => .short
      | some (x, s2) =>
        match instr sym x with
        | none => .noSuchSymbol sym
        | some i => .elem i s2

/-- `Decoded` from a read that only fails by running out. -/
def Decoded.ofOption : Option (Instr × σ) → Decoded σ
  | none => .short
  | some (i, s) => .elem i s

/-- BFINAL then BTYPE (R93, R205). -/
def readBlkHdr (src : Source σ) (s : σ) : Option (Instr × σ) :=
  match eatBits src 1 s with
  | none => none
  | some (bfinal, s1) => (eatBits src 2 s1).map fun (btype, s2) => (blkInstr bfinal btype, s2)

/-- LEN then NLEN (R94, R206). -/
def readStoredHdr (src : Source σ) (s : σ) : Option (Instr × σ) :=
  match eatBits src 16 s with
  | none => none
  | some (len, s1) =>
    (eatBits src 16 s1).map fun (nlen, s2) => (.storedHdr (BitVec.ofNat 16 len) (BitVec.ofNat 16 nlen), s2)

/-- HLIT, HDIST, HCLEN (R95, R174). -/
def readDynHdr (src : Source σ) (s : σ) : Option (Instr × σ) :=
  match eatBits src 5 s with
  | none => none
  | some (hlit, s1) =>
    match eatBits src 5 s1 with
    | none => none
    | some (hdist, s2) =>
      (eatBits src 4 s2).map fun (hclen, s3) =>
        (.dynHdr (BitVec.ofNat 5 hlit) (BitVec.ofNat 5 hdist) (BitVec.ofNat 4 hclen), s3)

/-- `ncl` fields of 3 bits (R96, R175). -/
def readClLens (src : Source σ) (ncl : Nat) (s : σ) : Option (Instr × σ) :=
  (eatFields src 3 ncl s).map fun (vs, s1) => (.clLens (vs.map (BitVec.ofNat 3)), s1)

/-- One raw byte, by `EAT_RAW(1)` (R143, R210). -/
def readRawByte (src : Source σ) (s : σ) : Option (Instr × σ) :=
  (src.byte s).map fun (b, s1) => (.rawByte b, s1)

/-- CMF then FLG (R102, R280). -/
def readZhdr (src : Source σ) (s : σ) : Option (Instr × σ) :=
  match eatBits src 8 s with
  | none => none
  | some (cmf, s1) => (eatBits src 8 s1).map fun (flg, s2) => (.zhdr (BitVec.ofNat 8 cmf) (BitVec.ofNat 8 flg), s2)

/-- The trailer, by `EAT_BITS_SWAP_32(32)` (R103, R286). -/
def readZtrailer (src : Source σ) (s : σ) : Option (Instr × σ) :=
  (eatBitsSwap src 4 32 s).map fun (v, s1) => (.ztrailer (BitVec.ofNat 32 v), s1)

/-- The decoder: the next element of a source in a context (R90 to R103). Total on any source. -/
def decode (src : Source σ) (c : Ctx) (s : σ) : Decoded σ :=
  match c with
  | .zhdr => .ofOption (readZhdr src s)
  | .blkHdr => .ofOption (readBlkHdr src s)
  | .storedHdr => .ofOption (readStoredHdr src s)
  | .dynHdr => .ofOption (readDynHdr src s)
  | .clLens n => .ofOption (readClLens src n s)
  | .clSym t noPrevious => decodeCoded src t (clExtra noPrevious) clInstr s
  | .rawByte => .ofOption (readRawByte src s)
  | .llSym t => decodeCoded src t llExtra llInstr s
  | .dSym t => decodeCoded src t distExtra dInstr s
  | .ztrailer => .ofOption (readZtrailer src s)

/-- The code-length symbol of an element, its number of extra bits and their value (R97). -/
def Instr.clSymbol : Instr → Option (Nat × Nat × Nat)
  | .clLen len => some (len.toNat, 0, 0)
  | .clCopy x => some (16, 2, x.toNat)
  | .clZero3 x => some (17, 3, x.toNat)
  | .clZero11 x => some (18, 7, x.toNat)
  | _ => none

/-- The literal/length symbol of an element, its number of extra bits and their value (R98, R99). -/
def Instr.llSymbol : Instr → Option (Nat × Nat × Nat)
  | .lit b => some (b.toNat, 0, 0)
  | .eob => some (256, 0, 0)
  | .len257 => some (257, 0, 0)
  | .len258 => some (258, 0, 0)
  | .len259 => some (259, 0, 0)
  | .len260 => some (260, 0, 0)
  | .len261 => some (261, 0, 0)
  | .len262 => some (262, 0, 0)
  | .len263 => some (263, 0, 0)
  | .len264 => some (264, 0, 0)
  | .len265 x => some (265, 1, x.toNat)
  | .len266 x => some (266, 1, x.toNat)
  | .len267 x => some (267, 1, x.toNat)
  | .len268 x => some (268, 1, x.toNat)
  | .len269 x => some (269, 2, x.toNat)
  | .len270 x => some (270, 2, x.toNat)
  | .len271 x => some (271, 2, x.toNat)
  | .len272 x => some (272, 2, x.toNat)
  | .len273 x => some (273, 3, x.toNat)
  | .len274 x => some (274, 3, x.toNat)
  | .len275 x => some (275, 3, x.toNat)
  | .len276 x => some (276, 3, x.toNat)
  | .len277 x => some (277, 4, x.toNat)
  | .len278 x => some (278, 4, x.toNat)
  | .len279 x => some (279, 4, x.toNat)
  | .len280 x => some (280, 4, x.toNat)
  | .len281 x => some (281, 5, x.toNat)
  | .len282 x => some (282, 5, x.toNat)
  | .len283 x => some (283, 5, x.toNat)
  | .len284 x => some (284, 5, x.toNat)
  | .len285 => some (285, 0, 0)
  | .llInvalid b0 => some (286 + b0.toNat, 0, 0)
  | _ => none

/-- The distance symbol of an element, its number of extra bits and their value (R100). -/
def Instr.dSymbol : Instr → Option (Nat × Nat × Nat)
  | .dist0 => some (0, 0, 0)
  | .dist1 => some (1, 0, 0)
  | .dist2 => some (2, 0, 0)
  | .dist3 => some (3, 0, 0)
  | .dist4 x => some (4, 1, x.toNat)
  | .dist5 x => some (5, 1, x.toNat)
  | .dist6 x => some (6, 2, x.toNat)
  | .dist7 x => some (7, 2, x.toNat)
  | .dist8 x => some (8, 3, x.toNat)
  | .dist9 x => some (9, 3, x.toNat)
  | .dist10 x => some (10, 4, x.toNat)
  | .dist11 x => some (11, 4, x.toNat)
  | .dist12 x => some (12, 5, x.toNat)
  | .dist13 x => some (13, 5, x.toNat)
  | .dist14 x => some (14, 6, x.toNat)
  | .dist15 x => some (15, 6, x.toNat)
  | .dist16 x => some (16, 7, x.toNat)
  | .dist17 x => some (17, 7, x.toNat)
  | .dist18 x => some (18, 8, x.toNat)
  | .dist19 x => some (19, 8, x.toNat)
  | .dist20 x => some (20, 9, x.toNat)
  | .dist21 x => some (21, 9, x.toNat)
  | .dist22 x => some (22, 10, x.toNat)
  | .dist23 x => some (23, 10, x.toNat)
  | .dist24 x => some (24, 11, x.toNat)
  | .dist25 x => some (25, 11, x.toNat)
  | .dist26 x => some (26, 12, x.toNat)
  | .dist27 x => some (27, 12, x.toNat)
  | .dist28 x => some (28, 13, x.toNat)
  | .dist29 x => some (29, 13, x.toNat)
  | .distInvalid b0 => some (30 + b0.toNat, 0, 0)
  | _ => none

/-- The bits of a Huffman-coded element: its code in the table, then its extra bits (R92). -/
def encodeCoded (t : Table) : Option (Nat × Nat × Nat) → Option (List Bool)
  | none => none
  | some (sym, n, x) => (codeBits t sym).map fun bits => bits ++ lsbBits n x

/-- The bits of a block header (R93). -/
def blkBits (bfinal : Bool) (btype : Nat) : List Bool := bfinal :: lsbBits 2 btype

/-- The encoder: the bits, in stream order, of an element in a context; nothing where the context does not admit it.
A code-length repeat with no previous length ends at its code (R178, R324). -/
def encode (c : Ctx) (i : Instr) : Option (List Bool) :=
  match c, i with
  | .blkHdr, .blkStored f => some (blkBits f 0)
  | .blkHdr, .blkFixed f => some (blkBits f 1)
  | .blkHdr, .blkDynamic f => some (blkBits f 2)
  | .blkHdr, .blkReserved f => some (blkBits f 3)
  | .storedHdr, .storedHdr len nlen => some (lsbBits 16 len.toNat ++ lsbBits 16 nlen.toNat)
  | .rawByte, .rawByte b => some (lsbBits 8 b.toNat)
  | .dynHdr, .dynHdr hlit hdist hclen =>
    some (lsbBits 5 hlit.toNat ++ lsbBits 5 hdist.toNat ++ lsbBits 4 hclen.toNat)
  | .clLens n, .clLens lens =>
    if lens.length = n then some (lens.flatMap fun l => lsbBits 3 l.toNat) else none
  | .clSym t noPrevious, .clCopy x =>
    if noPrevious then (if x = 0#2 then codeBits t 16 else none) else encodeCoded t (some (16, 2, x.toNat))
  | .clSym t _, i => encodeCoded t i.clSymbol
  | .llSym t, i => encodeCoded t i.llSymbol
  | .dSym t, i => encodeCoded t i.dSymbol
  | .zhdr, .zhdr cmf flg => some (lsbBits 8 cmf.toNat ++ lsbBits 8 flg.toNat)
  | .ztrailer, .ztrailer expected => some (lsbBits 32 (byteReverse 4 expected.toNat))
  | _, _ => none

/-- A code-length table with one symbol, so that a table word for that symbol can be read (R166). -/
def clTableFor (sym : Nat) : Table := singleCode sym

/-- How a word of spec/opcode_table.json is read (log 13). The table numbers a Huffman-coded row by its SYMBOL, not by
stream bits, and rows of different formats share words; which format is due is the state's (R91). So a word stands for the
context and the bits answered here: first the words that are exactly a row's match, in the table's order (BLKHDR, CLSYM, DSYM
among 8-bit rows; LLSYM, ZHDR among 16-bit rows), then the rows whose operands the word can carry. A Huffman-coded symbol
is laid out as its code in the fixed tables (R101), or, for a code-length symbol, in the one-symbol table. -/
def tableRead (nbits w : Nat) : Option (Ctx × List Bool) :=
  if nbits = 8 then
    if w = 0 ∨ w = 2 ∨ w = 4 ∨ w = 6 then some (.blkHdr, lsbBits 3 w)
    else if 16 ≤ w ∧ w ≤ 18 then some (.clSym (clTableFor w) false, [false])
    else if w < 32 then (codeBits fixedD w).map fun bits => (.dSym fixedD, bits)
    else some (.rawByte, lsbBits 8 w)
  else if nbits = 16 then
    if w = 8 then some (.zhdr, lsbBits 16 w)
    else if w < 288 then (codeBits fixedLL w).map fun bits => (.llSym fixedLL, bits)
    else if w % 16 = 8 then some (.zhdr, lsbBits 16 w)
    else some (.dynHdr, lsbBits 14 w)
  else if nbits = 32 then some (.storedHdr, lsbBits 32 w)
  else if nbits = 64 then some (.clLens 19, lsbBits 57 w)
  else none

/-- The bits of a table word with the zeros that every operand above it holds. -/
def tableBits (bits : List Bool) : List Bool := bits ++ List.replicate 64 false

/-- The instruction the decoder reads from a word of spec/opcode_table.json (log 13). -/
def decodeTableWord (nbits w : Nat) : Option Instr :=
  match tableRead nbits w with
  | none => none
  | some (c, bits) =>
    match decode listSource c (tableBits bits) with
    | .elem i _ => some i
    | _ => none

end Sys2Proof
end

