-- ==== Sys2Proof/Machine/Fetch.lean ====
section
/-! DEFINITION. Fetching the element that is due, and placing a table word where the next step fetches. -/

namespace Sys2Proof.Machine

/-- The elements that emit a byte (R210, R212). -/
def emits : Instr → Bool
  | .rawByte _ | .lit _ => true
  | _ => false

/-- What a fetch answers. -/
inductive Fetched where
  /-- An element, and the state with the cursor past it. -/
  | elem (i : Instr) (s : State)
  /-- The source has not delivered the element's bits: the block waits (R81, R356). -/
  | wait
  /-- The fetch raises an error (R147, R173). -/
  | error (e : ErrCode)
  /-- The table the element needs is invalid. -/
  | noTable
  /-- A raw byte at a cursor that is not byte-aligned (R74). -/
  | misaligned
  /-- A symbol outside the alphabet (log 11). -/
  | noSuchSymbol

/-- Read the element of a format at the cursor (R90 to R92). When the source runs out inside the element, the block waits for the
next byte until the end of the input is signalled, and then raises `E_PREMATURE_END` (R147, R318, R356). -/
def State.fetch (s : State) (f : Format) : Fetched :=
  if f = .rawByte ∧ s.cur.bitIdx ≠ 0#3 then .misaligned
  else match s.ctx f with
    | none => .noTable
    | some c =>
      match decode s.source c s.cur with
      | .elem i cur => .elem i { s with cur := cur }
      | .short => if s.inEnded then .error .ePrematureEnd else .wait
      | .emptyTable => .error .eBadSymbol
      | .noSuchSymbol _ => .noSuchSymbol

/-- A list of bits packed into bytes, bit 0 of each byte first (R68); a last partial byte is filled with zeros. -/
def packBits : Nat → List Bool → List Byte
  | 0, _ => []
  | k + 1, bits => BitVec.ofNat 8 ((bits.take 8).foldr (fun b v => b.toNat + 2 * v) 0) :: packBits k (bits.drop 8)

/-- A state in which the element of a context is due next (R91): the phase, the place inside the engine step and what that
place needs. -/
def State.placeAt (s : State) (c : Ctx) : State :=
  let body := { s with hostOps := [], sinkReady := true, phase := .body, mid := .settled, bstate := .between }
  match c with
  | .zhdr => { body with phase := .zhdr }
  | .blkHdr => { body with finalSeen := false }
  | .storedHdr => { body with mid := .storedHdr }
  | .dynHdr => { body with mid := .dynHdr }
  | .clLens n => { body with mid := .clLens 0#5 0#5 (BitVec.ofNat 4 (n - 4)) }
  | .clSym t noPrevious => { body with mid := .clSyms 0#5 0#5 t (if noPrevious then [] else [0#4]) }
  | .rawByte => { body with bstate := .stored, rawRemaining := if s.rawRemaining = 0#16 then 1#16 else s.rawRemaining }
  | .llSym t => { body with bstate := .fixed, llTable := some t, distTable := some fixedD, copyLen := 0#9 }
  | .dSym t => { body with bstate := .fixed, llTable := some fixedLL, distTable := some t, copyLen := 0#9, mid := .dist 3#9 }
  | .ztrailer => { body with phase := .ztrailer }

/-- Bits stored in `IN` from the byte at the cursor on, the cursor at the first of them, the input ended after them. -/
def State.placeBits (s : State) (bits : List Bool) : State :=
  let bytes := packBits ((bits.length + 7) / 8) bits
  { s with
    cur := s.cur.align
    input := s.input.writeBytes s.cur.inPos bytes
    inLen := max s.inLen (s.cur.inPos + bytes.length)
    inEnded := true }

end Sys2Proof.Machine
end

