-- ==== Sys2Proof/Machine/Engine.lean ====
section
/-! DEFINITION. One step of the engine: the element that is due, a copy step, the end of the body, or nothing (R91, R202, R266); and a whole engine step as a run of these (R202); `NextValue` as a run of engine steps (R203). -/

namespace Sys2Proof.Machine

/-- One element step of the engine (log 1). Waiting for input, or for the sink before a byte is emitted, changes nothing
(R81, R356). -/
def State.engine (s : State) : Host.Outcome State Fault Refusal :=
  match s.point with
  | .idle => .next s
  | .bodyEnd => .next s.finishBody
  | .copy => if s.sinkReady then s.copyStep else .next s
  | .element f =>
    match s.fetch f with
    | .elem i s1 => if emits i && !s.sinkReady then .next s else exec i s1
    | .wait => .next s
    | .error e => .next (s.raise e)
    | .noTable => .fault .noTable
    | .misaligned => .refused .misalignedRaw
    | .noSuchSymbol => .refused .noSuchSymbol

/-- The result of an engine step (R202). -/
inductive StepResult where
  | byte (b : Byte) | none | bodyEnd | raised (e : ErrCode)
  deriving DecidableEq, Repr

/-- The result an engine step of the body shows, from the states before and after it (R202, R326). -/
def stepResult (s t : State) : StepResult :=
  if t.phase = .failed then .raised t.err
  else if s.totalOut < t.totalOut then
    match t.out.getLast? with
    | some b => .byte b
    | none => .none
  else if t.phase = .body then .none
  else .bodyEnd

/-- `EngineStep()` (R202): element steps until the engine step is complete, at most `fuel` of them. A dynamic block header is the
longest, with 3 + 320 elements. -/
def State.engineStep : Nat → State → Host.Outcome State Fault Refusal
  | 0, s => .next s
  | fuel + 1, s =>
    match s.engine with
    | .next t => if t.mid = .settled then .next t else State.engineStep fuel t
    | .fault r => .fault r
    | .refused r => .refused r

/-- The bits of the delivered input that the cursor has not passed (R148). -/
def State.unreadBits (s : State) : Nat := 8 * s.inLen - s.cur.bitAddr

/-- Engine steps repeated until the result is not `NONE`, at most `fuel` of them (R203): the last result and the state after it. -/
def State.repeatSteps : Nat → State → Host.Outcome (StepResult × State) Fault Refusal
  | 0, s => .next (.none, s)
  | fuel + 1, s =>
    match s.engineStep 400 with
    | .next t => if stepResult s t = .none then State.repeatSteps fuel t else .next (stepResult s t, t)
    | .fault r => .fault r
    | .refused r => .refused r

/-- `NextValue()` (R203), between engine steps of the body: `EngineStep()` repeated until the result is not `NONE`. Every `NONE` step
reads at least one input bit, so one step more than there are unread bits is enough. While the input or the sink is waited for there
is no such result yet, and it answers `NONE` (log 7). -/
def State.nextValue (s : State) : Host.Outcome (StepResult × State) Fault Refusal := s.repeatSteps (s.unreadBits + 1)

end Sys2Proof.Machine
end

