-- ==== Sys2Proof/Machine/Step.lean ====
section
/-! DEFINITION. One step of the machine, and placing a table word. -/

namespace Sys2Proof.Machine

/-- One step: the host's oldest pending operation if there is one (log 2), else one step of the engine. -/
def step (s : State) : Host.Outcome State Fault Refusal :=
  match s.hostOps with
  | [] => s.engine
  | .pass :: ops => State.engine { s with hostOps := ops }
  | op :: ops => State.hostAct { s with hostOps := ops } op

/-- `s` with the element of a word of spec/opcode_table.json where the next step fetches (logs 13, 14). -/
def State.withFetchWord (s : State) (nbits w : Nat) : State :=
  match tableRead nbits w with
  | none => s
  | some (c, bits) => (s.placeAt c).placeBits (tableBits bits)

end Sys2Proof.Machine
end

