-- ==== Sys2Proof/Machine/Reference.lean ====
section
/-! DEFINITION. One whole engine step as the rules write it (R202 to R239, R174 to R184), with no element steps: what `State.engineStep` is to be equal to (log 1). For an input that has ended. -/

namespace Sys2Proof.Machine

/-- A read that finds the input empty raises `E_PREMATURE_END` (R147). -/
def need {α : Type} : Option α → Except ErrCode α
  | none => .error .ePrematureEnd
  | some a => .ok a

/-- `DECODE(T)` with its two errors (R171 to R173). -/
def refDecode (src : Source Cursor) (t : Table) (c : Cursor) : Except ErrCode (Nat × Cursor) :=
  if t.isEmpty then .error .eBadSymbol else need (decodeSym src t c)

/-- The loop of R177 with the arms of R178 to R180: the code lengths, and the cursor after them. -/
def refLens (src : Source Cursor) (t : Table) (total : Nat) :
    Nat → List (BitVec 4) → Cursor → Except ErrCode (List (BitVec 4) × Cursor)
  | 0, _, _ => .error .ePrematureEnd
  | fuel + 1, lens, c =>
    if total ≤ lens.length then .ok (lens, c)
    else do
      let (sym, c1) ← refDecode src t c
      if sym < 16 then refLens src t total fuel (lens ++ [BitVec.ofNat 4 sym]) c1
      else if sym = 16 then
        match lens.getLast? with
        | none => .error .eDynRepeat
        | some l =>
          let (x, c2) ← need (eatBits src 2 c1)
          refLens src t total fuel (lens ++ List.replicate (3 + x) l) c2
      else if sym = 17 then
        let (x, c2) ← need (eatBits src 3 c1)
        refLens src t total fuel (lens ++ List.replicate (3 + x) 0#4) c2
      else
        let (x, c2) ← need (eatBits src 7 c1)
        refLens src t total fuel (lens ++ List.replicate (11 + x) 0#4) c2

/-- R174 to R184: the two tables of a dynamic block, and the cursor after their description. -/
def refTables (src : Source Cursor) (c : Cursor) : Except ErrCode (Table × Table × Cursor) := do
  let (hlit, c1) ← need (eatBits src 5 c)
  let (hdist, c2) ← need (eatBits src 5 c1)
  let (hclen, c3) ← need (eatBits src 4 c2)
  let (fields, c4) ← need (eatFields src 3 (hclen + 4) c3)
  let clTable ← build (clLengths (fields.map (BitVec.ofNat 3))) false
  let total := (hlit + 257) + (hdist + 1)
  let (lens, c5) ← refLens src clTable total (total + 1) [] c4
  if lens.length ≠ total then throw .eDynCounts
  let llLen := (lens.map BitVec.toNat).take (hlit + 257)
  let dLen := (lens.map BitVec.toNat).drop (hlit + 257)
  if llLen.getD 256 0 = 0 then throw .eNoEob
  let ll ← build llLen false
  let d ← build dLen true
  return (ll, d, c5)

/-- `BlockHeader()` and the block it opens (R205 to R209). -/
def refHeader (s : State) : Except ErrCode State := do
  let (bfinal, c1) ← need (eatBits s.source 1 s.cur)
  let (btype, c2) ← need (eatBits s.source 2 c1)
  let s := { s with finalSeen := bfinal == 1 }
  if btype = 0 then
    let (len, c3) ← need (eatBits s.source 16 c2.align)
    let (nlen, c4) ← need (eatBits s.source 16 c3)
    if nlen ≠ 65535 - len then throw .eStoredLen
    return { s with cur := c4, rawRemaining := BitVec.ofNat 16 len, bstate := if len = 0 then .between else .stored }
  else if btype = 1 then
    return { s with cur := c2, llTable := some fixedLL, distTable := some fixedD, bstate := .fixed }
  else if btype = 2 then
    let (ll, d, c3) ← refTables s.source c2
    return { s with cur := c3, llTable := some ll, distTable := some d, bstate := .dynamic }
  else throw .eBtypeReserved

/-- `StoredByte()` (R210). -/
def refStoredByte (s : State) : Except ErrCode State := do
  let (bytes, c1) ← need (eatRaw s.source 1 s.cur)
  let s1 := { (bytes.foldl State.push s) with cur := c1, rawRemaining := s.rawRemaining - 1#16 }
  return { s1 with bstate := if s1.rawRemaining = 0#16 then .between else s1.bstate }

/-- The length, its distance and the back-reference check (R214, R223, R238, R239). -/
def refMatch (s : State) (sym : Nat) (distTable : Table) (c : Cursor) : Except ErrCode State := do
  let (x, c1) ← need (eatBits s.source (llExtra sym) c)
  let length := lengthBase sym + x
  let (dsym, c2) ← refDecode s.source distTable c1
  if 29 < dsym then throw .eBadSymbol
  let (y, c3) ← need (eatBits s.source (distExtra dsym) c2)
  let distance := distanceBase dsym + y
  if length = 0 ∨ distance = 0 ∨ s.totalOut < distance then throw .eBackref
  return { s with cur := c3, copyLen := BitVec.ofNat 9 length, copyDist := BitVec.ofNat 16 distance }

/-- `Symbol()` (R211). -/
def refSymbol (s : State) (llTable distTable : Table) : Except ErrCode State := do
  let (sym, c1) ← refDecode s.source llTable s.cur
  if sym < 256 then return { s.push (BitVec.ofNat 8 sym) with cur := c1 }
  else if sym = 256 then return { s with cur := c1, bstate := .between, llTable := none, distTable := none }
  else if sym ≤ 285 then refMatch s sym distTable c1
  else throw .eBadSymbol

/-- `EngineStep()` (R202), an error being the abort of R326. -/
def refEngineStep (s : State) : Host.Outcome State Fault Refusal :=
  let close : Except ErrCode State → Host.Outcome State Fault Refusal
    | .ok t => .next t.settle
    | .error e => .next (s.raise e)
  match s.bstate with
  | .between => if s.finalSeen then .next s.finishBody else close (refHeader s)
  | .stored => close (refStoredByte s)
  | .fixed | .dynamic =>
    if s.copyLen ≠ 0#9 then s.copyStep
    else
      match s.llTable, s.distTable with
      | some ll, some d => close (refSymbol s ll d)
      | _, _ => .fault .noTable

end Sys2Proof.Machine
end

