-- ==== Sys2Proof/Safety.lean ====
section
/-! DEFINITION. What counts as a safe run: valid tables (R160, R161), the invariant of the state (R30 and the rules it gathers), two states that differ only in what an earlier run left (R353). -/

namespace Sys2Proof.Machine

/-- The bit string of a table entry, first bit first (R160). -/
def entryBits (e : Entry) : List Bool := msbBits e.len e.code

/-- The entries are codes of 1 to 15 bits of symbols below `n` (R160, R31, R186). -/
abbrev Fits (n : Nat) (t : Table) : Prop :=
  ∀ e ∈ t, 1 ≤ e.len ∧ e.len ≤ Config.maxBits ∧ e.code < 2 ^ e.len ∧ e.sym < n

/-- No entry's bit string is a prefix of another entry's (R160). -/
abbrev PrefixCode (t : Table) : Prop :=
  t.Pairwise fun e f => ¬ entryBits e <+: entryBits f ∧ ¬ entryBits f <+: entryBits e

/-- The table is complete: every bit sequence has exactly one entry as a prefix; 15 bits are as good as infinitely many, no code
being longer (R161). -/
def Complete (t : Table) : Prop :=
  ∀ bits : List Bool, bits.length = Config.maxBits →
    ∃ e ∈ t, entryBits e <+: bits ∧ ∀ f ∈ t, entryBits f <+: bits → f = e

/-- The table is what BUILD returns for at most `n` code lengths, each at most 15 (R168, R186). -/
def Built (n : Nat) (allowEmpty : Bool) (t : Table) : Prop :=
  ∃ lengths : List Nat, lengths.length ≤ n ∧ (∀ l ∈ lengths, l ≤ Config.maxBits) ∧ build lengths allowEmpty = .ok t

/-- The two Adler-32 sums of some bytes before any reduction: `a` starts at 1, `b` is the accumulated sum of `a` (R288). -/
def adlerSums (bytes : List Byte) : Nat × Nat :=
  bytes.foldl (fun p x => (p.1 + x.toNat, p.2 + (p.1 + x.toNat))) (1, 0)

/-- The bytes of `OUT` that belong to the present run: the last `total_out` (R29, R66). -/
def State.runOut (s : State) : List Byte := s.out.drop (s.out.length - s.totalOut)

/-- The state is in one of the two Huffman block states (R200). -/
abbrev State.huffman (s : State) : Prop := s.bstate = .fixed ∨ s.bstate = .dynamic

/-- What holds of the temporaries at each place inside an engine step (R44, R91). -/
def State.midOk (s : State) : Prop :=
  match s.mid with
  | .settled => True
  | .storedHdr => s.bstate = .between ∧ s.cur.bitIdx = 0#3
  | .dynHdr => s.bstate = .between
  | .clLens _ _ _ => s.bstate = .between
  | .clSyms hlit hdist t lens =>
    s.bstate = .between ∧ Built 19 false t ∧ lens.length < nlit hlit + ndist hdist
  | .dist length => s.huffman ∧ s.copyLen = 0#9 ∧ 3 ≤ length.toNat ∧ length.toNat ≤ 258

/-- The invariant of the machine: true at reset and kept by every step. Clauses about the engine registers speak of a run in
progress, because after a failed run those registers are unspecified (R326). -/
structure State.Inv (s : State) : Prop where
  /-- The delivered bytes of `IN` are those at 0 to `inLen` - 1 (R60). -/
  input : s.input.map Prod.fst = List.range s.inLen
  /-- The window is canonical and has only the indices 0 to 65535 (R63). -/
  window : Mem.wf s.window ∧ ∀ c ∈ s.window, c.1 < Config.windowSize
  /-- The sums are always in 0 to 65520 (R39). -/
  sums : s.adlerA.toNat < Config.adlerMod ∧ s.adlerB.toNat < Config.adlerMod
  /-- `err` is 0 until a `raise` (R43). -/
  err : s.err = .eNone ↔ s.phase ≠ .failed
  /-- `END_POS` is 0 until the run is `DONE` (R37). -/
  endPos : s.phase ≠ .done → s.endPos = 0
  /-- The framing phases belong to zlib mode (R265, R268). -/
  framing : s.phase = .zhdr ∨ s.phase = .ztrailer → s.mode = .zlib
  /-- Temporaries exist in phase `BODY` only (R44). -/
  place : s.phase ≠ .body → s.mid = .settled
  /-- Between engine steps the status registers show the live values (R361). -/
  shown : s.mid = .settled → s.shown = ⟨s.cur.inPos, s.cur.bitIdx, s.finalSeen⟩
  /-- A buffered byte is the last one fetched (R21). -/
  cursor : s.phase.busy → s.cur.bitIdx ≠ 0#3 →
    1 ≤ s.cur.inPos ∧ s.input.read (s.cur.inPos - 1) = some s.cur.curByte
  /-- The three places that need a byte-aligned cursor have one (R73). -/
  aligned : (s.phase = .zhdr ∨ s.phase = .ztrailer ∨ s.phase.busy ∧ s.bstate = .stored) → s.cur.bitIdx = 0#3
  /-- R30 (a). -/
  raw : s.phase.busy → s.bstate = .stored → s.rawRemaining ≠ 0#16
  /-- R30 (b), R26. -/
  copy : s.phase.busy → s.copyLen ≠ 0#9 →
    s.huffman ∧ s.copyLen.toNat ≤ 258 ∧ 1 ≤ s.copyDist.toNat ∧ s.copyDist.toNat ≤ min s.totalOut Config.maxDist
  /-- R30 (c), R31, R32. -/
  tables : s.phase.busy → s.huffman →
    ∃ ll d, s.llTable = some ll ∧ s.distTable = some d ∧ Built 288 false ll ∧ Built 32 true d
  /-- The temporaries (R44). -/
  mid : s.phase.busy → s.midOk
  /-- R30 (d): the window holds the most recent bytes of the run. -/
  history : s.phase.busy → s.totalOut ≤ s.out.length ∧
    ∀ k < min s.totalOut Config.windowSize,
      s.window.read (s.wpos - BitVec.ofNat 16 (k + 1)).toNat = s.out[s.out.length - (k + 1)]?
  /-- `ADLER` is the Adler-32 of the bytes of the run (R39, R290, R291). -/
  adler : s.phase.busy →
    s.adlerA.toNat = (adlerSums s.runOut).1 % Config.adlerMod ∧ s.adlerB.toNat = (adlerSums s.runOut).2 % Config.adlerMod

/-- The code lengths an element of the code-length list produces after the list so far (R177 to R180). -/
def appended : Instr → List (BitVec 4) → Option (List (BitVec 4))
  | .clLen len, _ => some [len]
  | .clCopy x, lens => lens.getLast?.map fun l => List.replicate (3 + x.toNat) l
  | .clZero3 x, _ => some (List.replicate (3 + x.toNat) 0#4)
  | .clZero11 x, _ => some (List.replicate (11 + x.toNat) 0#4)
  | _, _ => none

/-- The byte an element emits (R210, R212). -/
def emitted : Instr → Option Byte
  | .rawByte b | .lit b => some b
  | _ => none

/-- The state in which a copy of a length at a distance has just been started and nothing else has changed (R239). -/
def State.copying (s : State) (length : BitVec 9) (distance : Nat) : State :=
  { s with
    copyLen := length, copyDist := BitVec.ofNat 16 distance,
    mid := .settled, shown := ⟨s.cur.inPos, s.cur.bitIdx, s.finalSeen⟩ }

/-- What a `raise` leaves determined (R326, R327): the phase and the code, and everything emitted before it; nothing is said of
the engine registers, the cursor, the tables, the window and CSR `ZHDR`. -/
structure FailsWith (s t : State) (e : ErrCode) : Prop where
  failed : t.phase = .failed ∧ t.err = e
  status : t.status.extractLsb' 0 8 = errCode e ++ 0b0010#4
  result : t.endPos = s.endPos ∧ t.out = s.out ∧ t.totalOut = s.totalOut ∧ t.adlerA = s.adlerA ∧ t.adlerB = s.adlerB
  host : t.hostOps = s.hostOps ∧ t.input = s.input ∧ t.inLen = s.inLen ∧ t.inEnded = s.inEnded ∧ t.sinkReady = s.sinkReady
  control : t.ctrlMode = s.ctrlMode ∧ t.startOff = s.startOff ∧ t.mode = s.mode
  place : t.mid = .settled

/-- A cursor inside a byte has that byte buffered (R21). -/
def CursorOk (fetch : Nat → Option Byte) (c : Cursor) : Prop :=
  c.bitIdx ≠ 0#3 → 1 ≤ c.inPos ∧ fetch (c.inPos - 1) = some c.curByte

/-- Bit `q` of the input: bit `q mod 8` of `IN[q div 8]` (R148). -/
def inBit (fetch : Nat → Option Byte) (q : Nat) : Option Bool := (fetch (q / 8)).map fun b => b.getLsbD (q % 8)

/-- The code space the lengths take, in units of `2 ^ (-15)` (R161, R163). -/
def kraft (lengths : List Nat) : Nat := (lengths.map fun l => if l = 0 then 0 else 2 ^ (Config.maxBits - l)).sum

/-- Two states of runs over the same input, offset and mode: they agree on everything but what an earlier run may have left
(`cur_byte` where none is buffered, window cells this run has not written, older bytes of `OUT`, the counter of free values) and, after
a failure, on everything R326 does not leave unspecified (R352, R353). -/
structure SameRun (s t : State) : Prop where
  host : s.hostOps = t.hostOps ∧ s.input = t.input ∧ s.inLen = t.inLen ∧ s.inEnded = t.inEnded ∧ s.sinkReady = t.sinkReady
  control : s.ctrlMode = t.ctrlMode ∧ s.startOff = t.startOff ∧ s.mode = t.mode ∧ s.phase = t.phase
  result : s.err = t.err ∧ s.endPos = t.endPos ∧ s.totalOut = t.totalOut ∧ s.adlerA = t.adlerA ∧ s.adlerB = t.adlerB
  place : s.mid = t.mid
  out : s.totalOut ≤ s.out.length ∧ t.totalOut ≤ t.out.length ∧ s.runOut = t.runOut
  cursor : s.phase ≠ .failed → s.cur.inPos = t.cur.inPos ∧ s.cur.bitIdx = t.cur.bitIdx ∧
    (s.cur.bitIdx ≠ 0#3 → s.cur.curByte = t.cur.curByte)
  engine : s.phase ≠ .failed → s.bstate = t.bstate ∧ s.finalSeen = t.finalSeen ∧ s.rawRemaining = t.rawRemaining ∧
    s.copyLen = t.copyLen ∧ s.copyDist = t.copyDist ∧ s.wpos = t.wpos ∧ s.llTable = t.llTable ∧ s.distTable = t.distTable
  status : s.phase ≠ .failed → s.shown = t.shown ∧ s.cmf = t.cmf ∧ s.flg = t.flg
  window : s.phase ≠ .failed → ∀ k < min s.totalOut Config.windowSize,
    s.window.read (s.wpos - BitVec.ofNat 16 (k + 1)).toNat = t.window.read (t.wpos - BitVec.ofNat 16 (k + 1)).toNat

end Sys2Proof.Machine

namespace Sys2Proof

open Machine

/-- A context whose table's entries are codes of that alphabet and no code is a prefix of another (R160). -/
def Ctx.ok : Ctx → Prop
  | .clSym t _ => Fits 19 t ∧ PrefixCode t
  | .llSym t => Fits 288 t ∧ PrefixCode t
  | .dSym t => Fits 32 t ∧ PrefixCode t
  | _ => True

/-- The tables of a context give every symbol one code only (no repaired single-code table, R166). -/
def Ctx.oneCodeEach : Ctx → Prop
  | .clSym t _ | .llSym t | .dSym t => (t.map Entry.sym).Nodup
  | _ => True

end Sys2Proof
end

