-- ==== Sys2Proof/Certificates/Slice0/Obligations.lean ====
section
/-! DEFINITION. The statements for the provers. Each docstring names the rules it comes from. -/

open Sys2Proof Sys2Proof.Machine

/-- Asserting reset puts every register at its specified value and leaves OUT and IN alone (70_reset_and_hazards.md R350, 10_state.md section 8, notes/assumptions/25.md). -/
def Obligations.HardResetLoadsTheResetValues : Prop :=
  ∀ (s : State) (ops : List HostOp), s.hostOps = .reset :: ops →
    ∃ t, step s = .next t ∧ t.hostOps = ops ∧
      t.phase = .idle ∧ t.mode = .raw ∧ t.ctrlMode = .raw ∧ t.startOff = 0 ∧ t.cur.inPos = 0 ∧ t.cur.bitIdx = 0#3 ∧
      t.bstate = .between ∧ t.finalSeen = false ∧ t.rawRemaining = 0#16 ∧ t.copyLen = 0#9 ∧ t.copyDist = 0#16 ∧
      t.wpos = 0#16 ∧ t.totalOut = 0 ∧ t.llTable = none ∧ t.distTable = none ∧ t.adlerA = 1#16 ∧ t.adlerB = 0#16 ∧
      t.err = .eNone ∧ t.endPos = 0 ∧ t.cmf = 0#8 ∧ t.flg = 0#8 ∧ t.mid = .settled ∧
      (List.range 8).map t.readCsr = [some 0, some 0, some 0x300, some 0, some 0, some 1, some 0, some 0] ∧
      (List.range 8).map State.reset.readCsr = (List.range 8).map t.readCsr ∧
      t.out = s.out ∧ t.input = s.input ∧ t.inLen = s.inLen ∧ t.inEnded = s.inEnded

/-- START from IDLE, DONE or FAILED loads every register of R265 and keeps the window, CTRL.MODE and START_OFF (44_decompress_toplevel.md R265, 70_reset_and_hazards.md R352, notes/assumptions/8.md). -/
def Obligations.StartLoadsEveryEngineRegister : Prop :=
  ∀ s : State, s.phase.busy = false →
    s.start.mode = s.ctrlMode ∧ s.start.cur.inPos = s.startOff ∧ s.start.cur.bitIdx = 0#3 ∧
    s.start.bstate = .between ∧ s.start.finalSeen = false ∧ s.start.rawRemaining = 0#16 ∧ s.start.copyLen = 0#9 ∧
    s.start.copyDist = 0#16 ∧ s.start.wpos = 0#16 ∧ s.start.totalOut = 0 ∧ s.start.llTable = none ∧
    s.start.distTable = none ∧ s.start.adlerA = 1#16 ∧ s.start.adlerB = 0#16 ∧ s.start.err = .eNone ∧
    s.start.endPos = 0 ∧ s.start.cmf = 0#8 ∧ s.start.flg = 0#8 ∧ s.start.mid = .settled ∧
    (s.ctrlMode = .zlib → s.start.phase = .zhdr) ∧ (s.ctrlMode = .raw → s.start.phase = .body) ∧
    s.start.window = s.window ∧ s.start.ctrlMode = s.ctrlMode ∧ s.start.startOff = s.startOff ∧
    s.start.out = s.out ∧ s.start.input = s.input ∧ s.start.inLen = s.inLen

/-- A CSR write: CTRL sets MODE and starts a run when the block is idle, START_OFF is stored, read-only CSRs are unchanged (10_state.md R34, 10_state.md R35, 44_decompress_toplevel.md R266, 70_reset_and_hazards.md R361, notes/assumptions/15.md, notes/assumptions/16.md). -/
def Obligations.CsrWritesActAsTheirRegisters : Prop :=
  ∀ (s : State) (n v : Nat) (ops : List HostOp), s.hostOps = .writeCsr n v :: ops →
    let m : Mode := if v.testBit 1 then .zlib else .raw
    (n = 0 → v.testBit 0 = false → step s = .next { s with hostOps := ops, ctrlMode := m }) ∧
    (n = 0 → v.testBit 0 = true → step s = .next (State.start { s with hostOps := ops, ctrlMode := m })) ∧
    (n = 0 → s.phase.busy = true → step s = .next { s with hostOps := ops, ctrlMode := m }) ∧
    (n = 1 → step s = .next { s with hostOps := ops, startOff := v }) ∧
    (2 ≤ n → n ≤ 7 → step s = .next { s with hostOps := ops }) ∧
    (8 ≤ n → step s = .refused .noSuchCsr)

/-- Every bit of STATUS shows the field that R36 gives it, in the numbers of R23 and R310 (10_state.md R36, 10_state.md R23, 60_exceptions.md R310, 70_reset_and_hazards.md R361, notes/assumptions/23.md). -/
def Obligations.StatusShowsItsFields : Prop :=
  ∀ s : State,
    s.status.getLsbD 0 = decide (s.phase = .zhdr ∨ s.phase = .body ∨ s.phase = .ztrailer) ∧
    s.status.getLsbD 1 = decide (s.phase = .done ∨ s.phase = .failed) ∧
    s.status.getLsbD 2 = decide (s.phase = .done) ∧
    s.status.getLsbD 3 = false ∧
    s.status.extractLsb' 4 4 = (if s.phase = .failed then errCode s.err else 0#4) ∧
    s.status.extractLsb' 8 2 = bstateCode s.bstate ∧
    s.status.getLsbD 10 = s.shown.finalSeen ∧
    s.status.extractLsb' 11 3 = s.shown.bitIdx ∧
    s.status.extractLsb' 14 18 = 0#18 ∧
    [BState.stored, .fixed, .dynamic, .between].map bstateCode = [0#2, 1#2, 2#2, 3#2] ∧
    errCode .eNone = 0#4 ∧ errCode .eStoredLen = 1#4 ∧ errCode .eHuffOverfull = 2#4 ∧ errCode .eHuffIncomplete = 3#4 ∧
    errCode .eNoEob = 4#4 ∧ errCode .eDynCounts = 5#4 ∧ errCode .eBackref = 6#4 ∧ errCode .eBtypeReserved = 7#4 ∧
    errCode .ePrematureEnd = 8#4 ∧ errCode .eZlibMethod = 9#4 ∧ errCode .eZlibFcheck = 10#4 ∧
    errCode .eZlibFdict = 11#4 ∧ errCode .eZlibAdler = 12#4 ∧ errCode .eBadSymbol = 13#4 ∧ errCode .eDynRepeat = 14#4

/-- A read of each CSR gives its register; a CSR number above 7 has no answer (log 15) (10_state.md R34, 10_state.md R35, 10_state.md R36, 10_state.md R37, 10_state.md R38, 10_state.md R39, 10_state.md R40, 10_state.md R41, notes/assumptions/15.md, notes/assumptions/23.md). -/
def Obligations.CsrReadsGiveTheirRegisters : Prop :=
  ∀ s : State,
    s.readCsr 0 = some (if s.ctrlMode = .zlib then 2 else 0) ∧
    s.readCsr 1 = some s.startOff ∧
    s.readCsr 2 = some s.status.toNat ∧
    s.readCsr 3 = some s.endPos ∧
    s.readCsr 4 = some s.totalOut ∧
    s.readCsr 5 = some (s.adlerB.toNat * 65536 + s.adlerA.toNat) ∧
    s.readCsr 6 = some s.shown.inPos ∧
    s.readCsr 7 = some (s.flg.toNat * 256 + s.cmf.toNat) ∧
    ∀ n, 8 ≤ n → s.readCsr n = none

/-- An idle block does nothing, and FAILED is left only by START or by hardware reset (44_decompress_toplevel.md R266, 60_exceptions.md R328). -/
def Obligations.FailedIsLeftOnlyByStartOrReset : Prop :=
  (∀ s : State, s.hostOps = [] → s.phase.busy = false → step s = .next s) ∧
    ∀ s t : State, s.phase = .failed → step s = .next t → t.phase ≠ .failed →
      ∃ ops, s.hostOps = .reset :: ops ∨ ∃ v, v.testBit 0 = true ∧ s.hostOps = .writeCsr 0 v :: ops

/-- BLK_STORED sets final_seen and aligns, BLK_DYNAMIC sets final_seen; the next element of the same engine step is due (42_block_engine.md R205, 42_block_engine.md R206, 42_block_engine.md R208). -/
def Obligations.BlockHeadersOpenTheirDescriptions : Prop :=
  ∀ (s : State) (f : Bool), s.point = .element .blkHdr →
    exec (.blkStored f) s =
      .next { s with finalSeen := f, cur := { s.cur with bitIdx := 0#3 }, mid := .storedHdr } ∧
    exec (.blkDynamic f) s = .next { s with finalSeen := f, mid := .dynHdr }

/-- BLK_FIXED installs the fixed tables and enters FIXED (R207). -/
def Obligations.FixedBlockInstallsTheFixedTables : Prop :=
  ∀ (s : State) (f : Bool), s.point = .element .blkHdr →
    exec (.blkFixed f) s =
      .next { s with
        finalSeen := f, llTable := some fixedLL, distTable := some fixedD, bstate := .fixed,
        mid := .settled, shown := ⟨s.cur.inPos, s.cur.bitIdx, f⟩ }

/-- BLK_RESERVED fails with E_BTYPE_RESERVED whatever BFINAL is (42_block_engine.md R209, 60_exceptions.md R317, 60_exceptions.md R326). -/
def Obligations.ReservedBlockTypeFails : Prop :=
  ∀ (s : State) (f : Bool), s.point = .element .blkHdr →
    (∃ t, exec (.blkReserved f) s = .next t ∧ FailsWith s t .eBtypeReserved)

/-- STORED_HDR loads LEN where NLEN is its complement and fails with E_STORED_LEN elsewhere (42_block_engine.md R206, 60_exceptions.md R311, 10_state.md R25). -/
def Obligations.StoredHeaderChecksTheComplement : Prop :=
  ∀ (s : State) (len nlen : BitVec 16), s.point = .element .storedHdr →
    (nlen = ~~~len → exec (.storedHdr len nlen) s =
      .next { s with
        rawRemaining := len, bstate := if len = 0#16 then .between else .stored,
        mid := .settled, shown := ⟨s.cur.inPos, s.cur.bitIdx, s.finalSeen⟩ }) ∧
    (nlen ≠ ~~~len → (∃ t, exec (.storedHdr len nlen) s = .next t ∧ FailsWith s t .eStoredLen))

/-- RAWBYTE pushes the byte, decrements raw_remaining and returns to BETWEEN at zero (42_block_engine.md R210, 43_lz77_window.md R251, 45_zlib_framer.md R289). -/
def Obligations.RawByteIsEmittedAndCountedOff : Prop :=
  ∀ (s : State) (b : Byte), s.point = .element .rawByte →
    exec (.rawByte b) s =
      .next { s with
        window := s.window.write s.wpos.toNat b, wpos := s.wpos + 1#16, totalOut := s.totalOut + 1,
        adlerA := BitVec.ofNat 16 ((s.adlerA.toNat + b.toNat) % 65521),
        adlerB := BitVec.ofNat 16 ((s.adlerB.toNat + (s.adlerA.toNat + b.toNat) % 65521) % 65521),
        out := s.out ++ [b], rawRemaining := s.rawRemaining - 1#16,
        bstate := if s.rawRemaining = 1#16 then .between else s.bstate,
        mid := .settled, shown := ⟨s.cur.inPos, s.cur.bitIdx, s.finalSeen⟩ }

/-- DYNHDR keeps the counts; CLLENS assigns the lengths in CLORDER and builds the code-length table or fails (41_huffman_tables.md R174, 41_huffman_tables.md R175, 41_huffman_tables.md R176, 30_encoding.md R96). -/
def Obligations.DynamicHeaderAndCodeLengthTable : Prop :=
  (∀ (s : State) (hlit hdist : BitVec 5) (hclen : BitVec 4), s.point = .element .dynHdr →
      exec (.dynHdr hlit hdist hclen) s = .next { s with mid := .clLens hlit hdist hclen }) ∧
    (∀ (s : State) (hlit hdist : BitVec 5) (hclen : BitVec 4) (lens : List (BitVec 3)),
      s.phase = .body → s.mid = .clLens hlit hdist hclen → lens.length = hclen.toNat + 4 →
      (∀ t, build (clLengths lens) false = .ok t →
        exec (.clLens lens) s = .next { s with mid := .clSyms hlit hdist t [] }) ∧
      (∀ e, build (clLengths lens) false = .error e → ∃ t, exec (.clLens lens) s = .next t ∧ FailsWith s t e)) ∧
    ∀ lens : List (BitVec 3), lens.length ≤ 19 → (clLengths lens).length = 19 ∧
      ∀ k < 19, (clLengths lens)[[16, 17, 18, 0, 8, 7, 9, 6, 10, 5, 11, 4, 12, 3, 13, 2, 14, 1, 15].getD k 0]? =
        some ((lens.map BitVec.toNat).getD k 0)

/-- Inside the list CL_LEN appends its symbol, CL_COPY 3 + x copies of the last length, CL_ZERO3 and CL_ZERO11 3 + x and 11 + x zeros (41_huffman_tables.md R177, 41_huffman_tables.md R178, 41_huffman_tables.md R179, 41_huffman_tables.md R180). -/
def Obligations.CodeLengthSymbolsExtendTheList : Prop :=
  ∀ (s : State) (hlit hdist : BitVec 5) (tab : Table) (lens : List (BitVec 4)),
    s.phase = .body → s.mid = .clSyms hlit hdist tab lens →
    (∀ l, lens.length + 1 < (hlit.toNat + 257) + (hdist.toNat + 1) →
      exec (.clLen l) s = .next { s with mid := .clSyms hlit hdist tab (lens ++ [l]) }) ∧
    (∀ (x : BitVec 2) (l : BitVec 4), lens.getLast? = some l →
      lens.length + (3 + x.toNat) < (hlit.toNat + 257) + (hdist.toNat + 1) →
      exec (.clCopy x) s = .next { s with mid := .clSyms hlit hdist tab (lens ++ List.replicate (3 + x.toNat) l) }) ∧
    (∀ x : BitVec 3, lens.length + (3 + x.toNat) < (hlit.toNat + 257) + (hdist.toNat + 1) →
      exec (.clZero3 x) s = .next { s with mid := .clSyms hlit hdist tab (lens ++ List.replicate (3 + x.toNat) 0#4) }) ∧
    (∀ x : BitVec 7, lens.length + (11 + x.toNat) < (hlit.toNat + 257) + (hdist.toNat + 1) →
      exec (.clZero11 x) s = .next { s with mid := .clSyms hlit hdist tab (lens ++ List.replicate (11 + x.toNat) 0#4) })

/-- The element that fills the list runs the count check, the end-of-block check and both table builds in that order (41_huffman_tables.md R181, 41_huffman_tables.md R182, 41_huffman_tables.md R183, 41_huffman_tables.md R184, 60_exceptions.md R314, 60_exceptions.md R315, 60_exceptions.md R325). -/
def Obligations.CodeLengthListEndsInTheTables : Prop :=
  ∀ (s : State) (hlit hdist : BitVec 5) (tab : Table) (lens new : List (BitVec 4)) (i : Instr),
    s.phase = .body → s.mid = .clSyms hlit hdist tab lens → appended i lens = some new →
    let total := (hlit.toNat + 257) + (hdist.toNat + 1)
    let ll := ((lens ++ new).map BitVec.toNat).take (hlit.toNat + 257)
    let d := ((lens ++ new).map BitVec.toNat).drop (hlit.toNat + 257)
    (total < (lens ++ new).length → ∃ t, exec i s = .next t ∧ FailsWith s t .eDynCounts) ∧
    ((lens ++ new).length = total → ll[256]? = some 0 → ∃ t, exec i s = .next t ∧ FailsWith s t .eNoEob) ∧
    (∀ e, (lens ++ new).length = total → ll[256]? ≠ some 0 → build ll false = .error e → ∃ t, exec i s = .next t ∧ FailsWith s t e) ∧
    (∀ tl e, (lens ++ new).length = total → ll[256]? ≠ some 0 → build ll false = .ok tl → build d true = .error e →
      ∃ t, exec i s = .next t ∧ FailsWith s t e) ∧
    (∀ tl td, (lens ++ new).length = total → ll[256]? ≠ some 0 → build ll false = .ok tl → build d true = .ok td →
      exec i s = .next { s with
        llTable := some tl, distTable := some td, bstate := .dynamic,
        mid := .settled, shown := ⟨s.cur.inPos, s.cur.bitIdx, s.finalSeen⟩ })

/-- CL_COPY as the first symbol of the list fails with E_DYN_REPEAT before its extra bits are read (41_huffman_tables.md R178, 60_exceptions.md R324, notes/assumptions/12.md). -/
def Obligations.CopyWithNoPreviousLengthFails : Prop :=
  (∀ (s : State) (hlit hdist : BitVec 5) (tab : Table) (x : BitVec 2),
      s.phase = .body → s.mid = .clSyms hlit hdist tab [] → (∃ t, exec (.clCopy x) s = .next t ∧ FailsWith s t .eDynRepeat)) ∧
    ∀ (t : Table) (bits : List Bool), Fits 19 t → PrefixCode t → codeBits t 16 = some bits →
      decode listSource (.clSym t true) bits = .elem (.clCopy 0#2) []

/-- LIT pushes its byte: window, wpos, total_out, both sums, OUT (42_block_engine.md R212, 43_lz77_window.md R251, 45_zlib_framer.md R289). -/
def Obligations.LiteralIsEmitted : Prop :=
  ∀ (s : State) (b : Byte), s.point = .element .llSym →
    exec (.lit b) s =
      .next { s with
        window := s.window.write s.wpos.toNat b, wpos := s.wpos + 1#16, totalOut := s.totalOut + 1,
        adlerA := BitVec.ofNat 16 ((s.adlerA.toNat + b.toNat) % 65521),
        adlerB := BitVec.ofNat 16 ((s.adlerB.toNat + (s.adlerA.toNat + b.toNat) % 65521) % 65521),
        out := s.out ++ [b],
        mid := .settled, shown := ⟨s.cur.inPos, s.cur.bitIdx, s.finalSeen⟩ }

/-- EOB returns to between-blocks and drops both tables; no byte is emitted (42_block_engine.md R213, 10_state.md R32). -/
def Obligations.EndOfBlockReturnsToBetween : Prop :=
  ∀ s : State, s.point = .element .llSym →
    exec .eob s =
      .next { s with
        bstate := .between, llTable := none, distTable := none,
        mid := .settled, shown := ⟨s.cur.inPos, s.cur.bitIdx, s.finalSeen⟩ } ∧
    ∀ t, exec .eob s = .next t → t.point = if s.finalSeen then .bodyEnd else .element .blkHdr

/-- LEN257 to LEN264 are the lengths 3 to 10, LEN285 is 258 (R215, R221). -/
def Obligations.LengthSymbolsWithoutExtraBits : Prop :=
  (∀ sym, 257 ≤ sym → sym ≤ 264 → llExtra sym = 0) ∧ llExtra 285 = 0 ∧
    ∀ s : State, s.point = .element .llSym →
    exec .len257 s = .next { s with mid := .dist 3#9 } ∧
    exec .len258 s = .next { s with mid := .dist 4#9 } ∧
    exec .len259 s = .next { s with mid := .dist 5#9 } ∧
    exec .len260 s = .next { s with mid := .dist 6#9 } ∧
    exec .len261 s = .next { s with mid := .dist 7#9 } ∧
    exec .len262 s = .next { s with mid := .dist 8#9 } ∧
    exec .len263 s = .next { s with mid := .dist 9#9 } ∧
    exec .len264 s = .next { s with mid := .dist 10#9 } ∧
    exec .len285 s = .next { s with mid := .dist 258#9 }

/-- LEN265 to LEN284 are base plus extra bits, by the bases of R216 to R220 (R216, R217, R218, R219, R220). -/
def Obligations.LengthSymbolsWithExtraBits : Prop :=
  (List.range' 265 20).map llExtra = [1, 1, 1, 1, 2, 2, 2, 2, 3, 3, 3, 3, 4, 4, 4, 4, 5, 5, 5, 5] ∧
    ∀ s : State, s.point = .element .llSym →
    (∀ x : BitVec 1, exec (.len265 x) s = .next { s with mid := .dist (BitVec.ofNat 9 (11 + x.toNat)) }) ∧
    (∀ x : BitVec 1, exec (.len266 x) s = .next { s with mid := .dist (BitVec.ofNat 9 (13 + x.toNat)) }) ∧
    (∀ x : BitVec 1, exec (.len267 x) s = .next { s with mid := .dist (BitVec.ofNat 9 (15 + x.toNat)) }) ∧
    (∀ x : BitVec 1, exec (.len268 x) s = .next { s with mid := .dist (BitVec.ofNat 9 (17 + x.toNat)) }) ∧
    (∀ x : BitVec 2, exec (.len269 x) s = .next { s with mid := .dist (BitVec.ofNat 9 (19 + x.toNat)) }) ∧
    (∀ x : BitVec 2, exec (.len270 x) s = .next { s with mid := .dist (BitVec.ofNat 9 (23 + x.toNat)) }) ∧
    (∀ x : BitVec 2, exec (.len271 x) s = .next { s with mid := .dist (BitVec.ofNat 9 (27 + x.toNat)) }) ∧
    (∀ x : BitVec 2, exec (.len272 x) s = .next { s with mid := .dist (BitVec.ofNat 9 (31 + x.toNat)) }) ∧
    (∀ x : BitVec 3, exec (.len273 x) s = .next { s with mid := .dist (BitVec.ofNat 9 (35 + x.toNat)) }) ∧
    (∀ x : BitVec 3, exec (.len274 x) s = .next { s with mid := .dist (BitVec.ofNat 9 (43 + x.toNat)) }) ∧
    (∀ x : BitVec 3, exec (.len275 x) s = .next { s with mid := .dist (BitVec.ofNat 9 (51 + x.toNat)) }) ∧
    (∀ x : BitVec 3, exec (.len276 x) s = .next { s with mid := .dist (BitVec.ofNat 9 (59 + x.toNat)) }) ∧
    (∀ x : BitVec 4, exec (.len277 x) s = .next { s with mid := .dist (BitVec.ofNat 9 (67 + x.toNat)) }) ∧
    (∀ x : BitVec 4, exec (.len278 x) s = .next { s with mid := .dist (BitVec.ofNat 9 (83 + x.toNat)) }) ∧
    (∀ x : BitVec 4, exec (.len279 x) s = .next { s with mid := .dist (BitVec.ofNat 9 (99 + x.toNat)) }) ∧
    (∀ x : BitVec 4, exec (.len280 x) s = .next { s with mid := .dist (BitVec.ofNat 9 (115 + x.toNat)) }) ∧
    (∀ x : BitVec 5, exec (.len281 x) s = .next { s with mid := .dist (BitVec.ofNat 9 (131 + x.toNat)) }) ∧
    (∀ x : BitVec 5, exec (.len282 x) s = .next { s with mid := .dist (BitVec.ofNat 9 (163 + x.toNat)) }) ∧
    (∀ x : BitVec 5, exec (.len283 x) s = .next { s with mid := .dist (BitVec.ofNat 9 (195 + x.toNat)) }) ∧
    (∀ x : BitVec 5, exec (.len284 x) s = .next { s with mid := .dist (BitVec.ofNat 9 (227 + x.toNat)) })

/-- Every length element has the extra bits and the base that the formula of R99 gives its symbol (30_encoding.md R99, 42_block_engine.md R214, 00_scope.md R5). -/
def Obligations.LengthElementsFollowTheBandedFormula : Prop :=
  ∀ (i : Instr) (s : State) (sym n x : Nat), i.llSymbol = some (sym, n, x) → 257 ≤ sym → sym ≤ 285 →
    s.point = .element .llSym →
    n = (if 265 ≤ sym ∧ sym ≤ 284 then (sym - 261) >>> 2 else 0) ∧
    ∃ length : Nat,
      length = (if sym ≤ 264 then sym - 254
        else if sym ≤ 284 then 3 + ((4 + (sym - 261) % 4) <<< ((sym - 261) >>> 2)) + x else 258) ∧
      3 ≤ length ∧ length ≤ 258 ∧ exec i s = .next { s with mid := .dist (BitVec.ofNat 9 length) }

/-- Literal/length symbols 286, 287 and distance symbols 30, 31 fail with E_BAD_SYMBOL (42_block_engine.md R222, 42_block_engine.md R238, 60_exceptions.md R323). -/
def Obligations.InvalidSymbolsFail : Prop :=
  (∀ (s : State) (b0 : BitVec 1), s.point = .element .llSym → (∃ t, exec (.llInvalid b0) s = .next t ∧ FailsWith s t .eBadSymbol)) ∧
    ∀ (s : State) (b0 : BitVec 1) (length : BitVec 9), s.phase = .body → s.mid = .dist length →
      (∃ t, exec (.distInvalid b0) s = .next t ∧ FailsWith s t .eBadSymbol)

/-- DIST0 to DIST15 start the copy at distance base plus extra bits, by the bases of R224 to R230 (R224, R225, R226, R227, R228, R229, R230). -/
def Obligations.ShortDistancesStartTheCopy : Prop :=
  (List.range' 0 16).map distExtra = [0, 0, 0, 0, 1, 1, 2, 2, 3, 3, 4, 4, 5, 5, 6, 6] ∧
    ∀ (s : State) (length : BitVec 9), s.phase = .body → s.mid = .dist length → length ≠ 0#9 →
    (1 ≤ s.totalOut → exec .dist0 s = .next (s.copying length 1)) ∧
    (2 ≤ s.totalOut → exec .dist1 s = .next (s.copying length 2)) ∧
    (3 ≤ s.totalOut → exec .dist2 s = .next (s.copying length 3)) ∧
    (4 ≤ s.totalOut → exec .dist3 s = .next (s.copying length 4)) ∧
    (∀ x : BitVec 1, 5 + x.toNat ≤ s.totalOut → exec (.dist4 x) s = .next (s.copying length (5 + x.toNat))) ∧
    (∀ x : BitVec 1, 7 + x.toNat ≤ s.totalOut → exec (.dist5 x) s = .next (s.copying length (7 + x.toNat))) ∧
    (∀ x : BitVec 2, 9 + x.toNat ≤ s.totalOut → exec (.dist6 x) s = .next (s.copying length (9 + x.toNat))) ∧
    (∀ x : BitVec 2, 13 + x.toNat ≤ s.totalOut → exec (.dist7 x) s = .next (s.copying length (13 + x.toNat))) ∧
    (∀ x : BitVec 3, 17 + x.toNat ≤ s.totalOut → exec (.dist8 x) s = .next (s.copying length (17 + x.toNat))) ∧
    (∀ x : BitVec 3, 25 + x.toNat ≤ s.totalOut → exec (.dist9 x) s = .next (s.copying length (25 + x.toNat))) ∧
    (∀ x : BitVec 4, 33 + x.toNat ≤ s.totalOut → exec (.dist10 x) s = .next (s.copying length (33 + x.toNat))) ∧
    (∀ x : BitVec 4, 49 + x.toNat ≤ s.totalOut → exec (.dist11 x) s = .next (s.copying length (49 + x.toNat))) ∧
    (∀ x : BitVec 5, 65 + x.toNat ≤ s.totalOut → exec (.dist12 x) s = .next (s.copying length (65 + x.toNat))) ∧
    (∀ x : BitVec 5, 97 + x.toNat ≤ s.totalOut → exec (.dist13 x) s = .next (s.copying length (97 + x.toNat))) ∧
    (∀ x : BitVec 6, 129 + x.toNat ≤ s.totalOut → exec (.dist14 x) s = .next (s.copying length (129 + x.toNat))) ∧
    (∀ x : BitVec 6, 193 + x.toNat ≤ s.totalOut → exec (.dist15 x) s = .next (s.copying length (193 + x.toNat)))

/-- DIST16 to DIST29 start the copy at distance base plus extra bits, by the bases of R231 to R237 (R231, R232, R233, R234, R235, R236, R237). -/
def Obligations.LongDistancesStartTheCopy : Prop :=
  (List.range' 16 14).map distExtra = [7, 7, 8, 8, 9, 9, 10, 10, 11, 11, 12, 12, 13, 13] ∧
    ∀ (s : State) (length : BitVec 9), s.phase = .body → s.mid = .dist length → length ≠ 0#9 →
    (∀ x : BitVec 7, 257 + x.toNat ≤ s.totalOut → exec (.dist16 x) s = .next (s.copying length (257 + x.toNat))) ∧
    (∀ x : BitVec 7, 385 + x.toNat ≤ s.totalOut → exec (.dist17 x) s = .next (s.copying length (385 + x.toNat))) ∧
    (∀ x : BitVec 8, 513 + x.toNat ≤ s.totalOut → exec (.dist18 x) s = .next (s.copying length (513 + x.toNat))) ∧
    (∀ x : BitVec 8, 769 + x.toNat ≤ s.totalOut → exec (.dist19 x) s = .next (s.copying length (769 + x.toNat))) ∧
    (∀ x : BitVec 9, 1025 + x.toNat ≤ s.totalOut → exec (.dist20 x) s = .next (s.copying length (1025 + x.toNat))) ∧
    (∀ x : BitVec 9, 1537 + x.toNat ≤ s.totalOut → exec (.dist21 x) s = .next (s.copying length (1537 + x.toNat))) ∧
    (∀ x : BitVec 10, 2049 + x.toNat ≤ s.totalOut → exec (.dist22 x) s = .next (s.copying length (2049 + x.toNat))) ∧
    (∀ x : BitVec 10, 3073 + x.toNat ≤ s.totalOut → exec (.dist23 x) s = .next (s.copying length (3073 + x.toNat))) ∧
    (∀ x : BitVec 11, 4097 + x.toNat ≤ s.totalOut → exec (.dist24 x) s = .next (s.copying length (4097 + x.toNat))) ∧
    (∀ x : BitVec 11, 6145 + x.toNat ≤ s.totalOut → exec (.dist25 x) s = .next (s.copying length (6145 + x.toNat))) ∧
    (∀ x : BitVec 12, 8193 + x.toNat ≤ s.totalOut → exec (.dist26 x) s = .next (s.copying length (8193 + x.toNat))) ∧
    (∀ x : BitVec 12, 12289 + x.toNat ≤ s.totalOut → exec (.dist27 x) s = .next (s.copying length (12289 + x.toNat))) ∧
    (∀ x : BitVec 13, 16385 + x.toNat ≤ s.totalOut → exec (.dist28 x) s = .next (s.copying length (16385 + x.toNat))) ∧
    (∀ x : BitVec 13, 24577 + x.toNat ≤ s.totalOut → exec (.dist29 x) s = .next (s.copying length (24577 + x.toNat)))

/-- Every distance element has the formula of R100, and fails with E_BACKREF exactly when its distance exceeds total_out (30_encoding.md R100, 42_block_engine.md R223, 42_block_engine.md R239, 60_exceptions.md R316). -/
def Obligations.BackReferencesAreChecked : Prop :=
  ∀ (i : Instr) (s : State) (length : BitVec 9) (sym n x : Nat), i.dSymbol = some (sym, n, x) → sym ≤ 29 →
    s.phase = .body → s.mid = .dist length → length ≠ 0#9 →
    n = (if sym ≤ 3 then 0 else (sym >>> 1) - 1) ∧
    ∃ distance : Nat,
      distance = (if sym ≤ 3 then sym + 1 else 1 + ((2 + sym % 2) <<< ((sym >>> 1) - 1)) + x) ∧
      1 ≤ distance ∧ distance ≤ 32768 ∧
      (s.totalOut < distance → ∃ t, exec i s = .next t ∧ FailsWith s t .eBackref) ∧
      (distance ≤ s.totalOut → exec i s = .next (s.copying length distance))

/-- ZHDR with method 8, a multiple of 31 and no dictionary stores CMF and FLG and opens the body (45_zlib_framer.md R280, 45_zlib_framer.md R284, 10_state.md R41). -/
def Obligations.ZlibHeaderIsAccepted : Prop :=
  ∀ (s : State) (cmf flg : Byte), s.point = .element .zhdr →
    cmf.extractLsb' 0 4 = 8#4 → (cmf.toNat * 256 + flg.toNat) % 31 = 0 → flg.getLsbD 5 = false →
    exec (.zhdr cmf flg) s =
      .next { s with cmf := cmf, flg := flg, phase := .body, mid := .settled, shown := ⟨s.cur.inPos, s.cur.bitIdx, s.finalSeen⟩ }

/-- ZHDR fails with the first failing check: method, multiple of 31, dictionary flag (45_zlib_framer.md R280, 45_zlib_framer.md R281, 45_zlib_framer.md R282, 45_zlib_framer.md R283, 60_exceptions.md R325). -/
def Obligations.ZlibHeaderErrorsComeInOrder : Prop :=
  ∀ (s : State) (cmf flg : Byte), s.point = .element .zhdr →
    (cmf.extractLsb' 0 4 ≠ 8#4 → (∃ t, exec (.zhdr cmf flg) s = .next t ∧ FailsWith s t .eZlibMethod)) ∧
    (cmf.extractLsb' 0 4 = 8#4 → (cmf.toNat * 256 + flg.toNat) % 31 ≠ 0 →
      (∃ t, exec (.zhdr cmf flg) s = .next t ∧ FailsWith s t .eZlibFcheck)) ∧
    (cmf.extractLsb' 0 4 = 8#4 → (cmf.toNat * 256 + flg.toNat) % 31 = 0 → flg.getLsbD 5 = true →
      (∃ t, exec (.zhdr cmf flg) s = .next t ∧ FailsWith s t .eZlibFdict))

/-- ZTRAILER ends the run in DONE with END_POS after the trailer where it equals ADLER, and fails with E_ZLIB_ADLER elsewhere (45_zlib_framer.md R286, 45_zlib_framer.md R287, 45_zlib_framer.md R292, 60_exceptions.md R322). -/
def Obligations.ZlibTrailerIsCompared : Prop :=
  ∀ (s : State) (expected : BitVec 32), s.point = .element .ztrailer →
    (expected.toNat = s.adlerB.toNat * 65536 + s.adlerA.toNat →
      exec (.ztrailer expected) s =
        .next { s with endPos := s.cur.inPos, phase := .done, mid := .settled, shown := ⟨s.cur.inPos, s.cur.bitIdx, s.finalSeen⟩ }) ∧
    (expected.toNat ≠ s.adlerB.toNat * 65536 + s.adlerA.toNat →
      (∃ t, exec (.ztrailer expected) s = .next t ∧ FailsWith s t .eZlibAdler))

/-- RAWBYTE and LIT store one byte at wpos; every other window address and all of IN read as before (43_lz77_window.md R251, 20_memory.md R63, 20_memory.md R66). -/
def Obligations.EmittingElementsStoreOneWindowByte : Prop :=
  ∀ (i : Instr) (s t : State) (b : Byte), Mem.wf s.window → emitted i = some b → exec i s = .next t →
    t.window.read s.wpos.toNat = some b ∧
    (∀ a, a ≠ s.wpos.toNat → t.window.read a = s.window.read a) ∧
    (∀ a, t.input.read a = s.input.read a) ∧
    t.out = s.out ++ [b] ∧ t.wpos.toNat = (s.wpos.toNat + 1) % 65536 ∧ t.totalOut = s.totalOut + 1

/-- The frame of every element: what it leaves unchanged when it answers a next state (42_block_engine.md section 1, 10_state.md section 3, 10_state.md section 5, 43_lz77_window.md R257). -/
def Obligations.ElementsChangeOnlyTheirRegisters : Prop :=
  ∀ (i : Instr) (s t : State), exec i s = .next t →
    (t.hostOps = s.hostOps ∧ t.input = s.input ∧ t.inLen = s.inLen ∧ t.inEnded = s.inEnded ∧
      t.sinkReady = s.sinkReady ∧ t.ctrlMode = s.ctrlMode ∧ t.startOff = s.startOff ∧ t.mode = s.mode) ∧
    (emits i = false →
      t.totalOut = s.totalOut ∧ t.adlerA = s.adlerA ∧ t.adlerB = s.adlerB ∧ t.out = s.out) ∧
    (t.phase ≠ .failed →
      ((∀ f, i ≠ .blkStored f) → t.cur = s.cur) ∧
      (emits i = false → t.wpos = s.wpos ∧ ∀ a, t.window.read a = s.window.read a) ∧
      (i.format ≠ .blkHdr → t.finalSeen = s.finalSeen) ∧
      (i.format ≠ .storedHdr → i.format ≠ .rawByte → t.rawRemaining = s.rawRemaining) ∧
      (i.format ≠ .dSym → t.copyLen = s.copyLen ∧ t.copyDist = s.copyDist) ∧
      (i ≠ .eob → i.format ≠ .clSym → (∀ f, i ≠ .blkFixed f) →
        t.llTable = s.llTable ∧ t.distTable = s.distTable) ∧
      (i ≠ .eob → i.format ≠ .clSym → (∀ f, i ≠ .blkFixed f) → i.format ≠ .storedHdr → i.format ≠ .rawByte →
        t.bstate = s.bstate) ∧
      (i.format ≠ .zhdr → t.cmf = s.cmf ∧ t.flg = s.flg) ∧
      (i.format ≠ .ztrailer → t.endPos = s.endPos) ∧
      t.err = s.err ∧ t.fresh = s.fresh ∧
      (i.format ≠ .zhdr → i.format ≠ .ztrailer → t.phase = s.phase))

/-- An element answers a next state where its format is due and a refusal by name where it is not (30_encoding.md R91, 20_memory.md R74, notes/assumptions/9.md). -/
def Obligations.DueElementsCompleteAndOthersAreRefused : Prop :=
  ∀ (i : Instr) (s : State),
    (s.point ≠ .element i.format → exec i s = .refused .notDue) ∧
    (s.point = .element i.format →
      (∀ lens hlit hdist hclen, i = .clLens lens → s.mid = .clLens hlit hdist hclen → lens.length = hclen.toNat + 4) →
      ∃ t, exec i s = .next t)

/-- A copy step pushes the window byte copy_dist behind wpos and decrements copy_len (43_lz77_window.md R252, 43_lz77_window.md R251, 42_block_engine.md R211). -/
def Obligations.CopyStepEmitsTheByteAtTheDistance : Prop :=
  ∀ (s : State) (b : Byte), s.hostOps = [] → s.point = .copy → s.sinkReady = true →
    s.window.read ((s.wpos.toNat + 65536 - s.copyDist.toNat) % 65536) = some b →
    step s =
      .next { s with
        window := s.window.write s.wpos.toNat b, wpos := s.wpos + 1#16, totalOut := s.totalOut + 1,
        adlerA := BitVec.ofNat 16 ((s.adlerA.toNat + b.toNat) % 65521),
        adlerB := BitVec.ofNat 16 ((s.adlerB.toNat + (s.adlerA.toNat + b.toNat) % 65521) % 65521),
        out := s.out ++ [b], copyLen := s.copyLen - 1#9,
        mid := .settled, shown := ⟨s.cur.inPos, s.cur.bitIdx, s.finalSeen⟩ }

/-- END aligns the cursor; raw mode is then DONE with END_POS = in_pos, zlib mode goes to the trailer (42_block_engine.md R204, 44_decompress_toplevel.md R268). -/
def Obligations.EndOfBodyAlignsAndCompletes : Prop :=
  ∀ s : State, s.hostOps = [] → s.point = .bodyEnd →
    (s.mode = .raw → step s =
      .next { s with
        cur := { s.cur with bitIdx := 0#3 }, endPos := s.cur.inPos, phase := .done,
        mid := .settled, shown := ⟨s.cur.inPos, 0#3, s.finalSeen⟩ }) ∧
    (s.mode = .zlib → step s =
      .next { s with
        cur := { s.cur with bitIdx := 0#3 }, phase := .ztrailer,
        mid := .settled, shown := ⟨s.cur.inPos, 0#3, s.finalSeen⟩ })

/-- A step runs exec on the element that the bits at the cursor decode to, with the cursor past it (30_encoding.md R91, 30_encoding.md R92, 42_block_engine.md R202). -/
def Obligations.StepRunsTheDecodedElement : Prop :=
  ∀ (s : State) (f : Format) (c : Ctx) (i : Instr) (cur : Cursor),
    s.hostOps = [] → s.point = .element f → s.ctx f = some c → (f = .rawByte → s.cur.bitIdx = 0#3) →
    decode s.source c s.cur = .elem i cur → i.WellFormed → (emits i = true → s.sinkReady = true) →
    step s = exec i { s with cur := cur }

/-- Exhausted input is waited for (log 7), and is E_PREMATURE_END once its end is signalled; an empty table is E_BAD_SYMBOL; an unready sink is waited for (log 7) (40_bitstream_reader.md R147, 20_memory.md R81, 70_reset_and_hazards.md R356, 41_huffman_tables.md R173, 60_exceptions.md R318, notes/assumptions/7.md). -/
def Obligations.ExhaustedInputWaitsOrFails : Prop :=
  (∀ (s : State) (f : Format) (c : Ctx),
      s.hostOps = [] → s.point = .element f → s.ctx f = some c → (f = .rawByte → s.cur.bitIdx = 0#3) →
      (decode s.source c s.cur = .short → s.inEnded = false → step s = .next s) ∧
      (decode s.source c s.cur = .short → s.inEnded = true → ∃ t, step s = .next t ∧ FailsWith s t .ePrematureEnd) ∧
      (∀ i cur, decode s.source c s.cur = .elem i cur → emits i = true → s.sinkReady = false → step s = .next s)) ∧
    (∀ (s : State) (f : Format) (c : Ctx), s.hostOps = [] → s.point = .element f → s.ctx f = some c →
      ((∃ p, c = .clSym [] p) ∨ c = .llSym [] ∨ c = .dSym []) →
      ∃ t, step s = .next t ∧ FailsWith s t .eBadSymbol) ∧
    (∀ s : State, s.hostOps = [] → s.point = .copy → s.sinkReady = false → step s = .next s)

/-- A word of each family, written out from the spec's encoding, decodes to its element (30_encoding.md R93, 30_encoding.md R94, 30_encoding.md R95, 30_encoding.md R97, 30_encoding.md R99, 30_encoding.md R100, 30_encoding.md R102, 30_encoding.md R103, 95_test_vectors.md). -/
def Obligations.WordsOfTheSpecDecode : Prop :=
  decode listSource .blkHdr [true, true, false] = .elem (.blkFixed true) [] ∧
    decode listSource .storedHdr (lsbBits 8 0x05 ++ lsbBits 8 0x00 ++ lsbBits 8 0xFA ++ lsbBits 8 0xFF) =
      .elem (.storedHdr 5#16 0xFFFA#16) [] ∧
    decode listSource .rawByte [true, false, false, false, false, true, true, false] = .elem (.rawByte 0x61#8) [] ∧
    decode listSource .dynHdr [true, false, false, false, false, false, false, false, false, false, false, true, true, true] = .elem (.dynHdr 1#5 0#5 14#4) [] ∧
    decode listSource (.clSym [⟨2, 2, 1⟩, ⟨2, 3, 2⟩, ⟨1, 0, 18⟩] true) [false, false, true, true, false, true, false, true] = .elem (.clZero11 86#7) [] ∧
    decode listSource (.llSym fixedLL) [true, false, false, true, false, false, false, true] = .elem (.lit 0x61#8) [] ∧
    decode listSource (.llSym fixedLL) [false, false, false, true, false, true, false, true] = .elem (.len266 1#1) [] ∧
    decode listSource (.dSym fixedD) [false, false, true, false, false, true] = .elem (.dist4 1#1) [] ∧
    decode listSource .zhdr (lsbBits 8 0x78 ++ lsbBits 8 0xDA) = .elem (.zhdr 0x78#8 0xDA#8) [] ∧
    decode listSource .ztrailer (lsbBits 8 0x11 ++ lsbBits 8 0x3D ++ lsbBits 8 0x03 ++ lsbBits 8 0x73) =
      .elem (.ztrailer 0x113D0373#32) []

/-- Decoding the encoding of any element in any context gives the element and leaves the rest (30_encoding.md section 1, 30_encoding.md R92, 30_encoding.md R104, 20_memory.md R69, 20_memory.md R70). -/
def Obligations.DecodeInvertsEncode : Prop :=
  ∀ (c : Ctx) (i : Instr) (bits rest : List Bool), c.ok → encode c i = some bits →
    decode listSource c (bits ++ rest) = .elem i rest

/-- Whatever the decoder reads, the encoder writes back bit by bit (30_encoding.md section 1, 30_encoding.md R92, 30_encoding.md R104). -/
def Obligations.EncodeInvertsDecode : Prop :=
  ∀ (c : Ctx) (i : Instr) (bits rest : List Bool), c.ok → c.oneCodeEach → decode listSource c bits = .elem i rest →
    ∃ used, encode c i = some used ∧ bits = used ++ rest

/-- Every decoded element is well formed and of the format that was asked for, from any source (30_encoding.md R91, 30_encoding.md R96). -/
def Obligations.DecodedElementsAreWellFormedAndOfTheirFormat : Prop :=
  ∀ (σ : Type) (src : Source σ) (c : Ctx) (i : Instr) (s s' : σ), (∀ n, c = .clLens n → 4 ≤ n ∧ n ≤ 19) →
    decode src c s = .elem i s' →
    i.format = c.format ∧ i.WellFormed ∧ ∀ n lens, c = .clLens n → i = .clLens lens → lens.length = n

/-- EAT_BITS(n) puts the i-th bit read at bit i of the result and takes exactly n bits; with fewer it gives nothing (40_bitstream_reader.md R141, 20_memory.md R69, 40_bitstream_reader.md R147). -/
def Obligations.FieldsAreReadLeastSignificantBitFirst : Prop :=
  ∀ (n : Nat) (bits : List Bool),
    (n ≤ bits.length → ∃ v, eatBits listSource n bits = some (v, bits.drop n) ∧ v < 2 ^ n ∧
      ∀ i < n, bits[i]? = some (v.testBit i)) ∧
    (bits.length < n → eatBits listSource n bits = none)

/-- EAT_BITS at the input cursor reads the input bits from its address on and advances the address by their number (40_bitstream_reader.md R148, 40_bitstream_reader.md R140, 10_state.md R21, 20_memory.md R68). -/
def Obligations.CursorReadsAdvanceByTheBitsTheyRead : Prop :=
  ∀ (fetch : Nat → Option Byte) (n : Nat) (c : Cursor), CursorOk fetch c →
    (∀ v c', eatBits (cursorSource fetch) n c = some (v, c') →
      CursorOk fetch c' ∧ c'.bitAddr = c.bitAddr + n ∧ ∀ i < n, inBit fetch (c.bitAddr + i) = some (v.testBit i)) ∧
    (eatBits (cursorSource fetch) n c = none → ∃ i < n, inBit fetch (c.bitAddr + i) = none)

/-- ALIGN is DROP_BITS((8 - bit_idx) mod 8) and rounds the bit address up to a multiple of 8 (40_bitstream_reader.md R145, 40_bitstream_reader.md R148). -/
def Obligations.AlignDropsTheRestOfTheByte : Prop :=
  ∀ (fetch : Nat → Option Byte) (c : Cursor),
    dropBits (cursorSource fetch) ((8 - c.bitIdx.toNat) % 8) c = some c.align ∧
    (CursorOk fetch c → c.align.bitAddr = 8 * ((c.bitAddr + 7) / 8))

/-- At a byte boundary EAT_RAW(1) and EAT_BITS(8) give the same byte and position; EAT_BITS_SWAP_32(32) is the big-endian value of four bytes (40_bitstream_reader.md R143, 40_bitstream_reader.md R142, 45_zlib_framer.md R286, 30_encoding.md R103). -/
def Obligations.ByteReadsAgree : Prop :=
  (∀ (fetch : Nat → Option Byte) (c : Cursor), c.bitIdx = 0#3 →
      (eatRaw (cursorSource fetch) 1 c).map (fun p => (p.1.map BitVec.toNat, p.2.inPos, p.2.bitIdx)) =
        (eatBits (cursorSource fetch) 8 c).map fun p => ([p.1], p.2.inPos, p.2.bitIdx)) ∧
    ∀ (b0 b1 b2 b3 : Byte) (rest : List Bool),
      eatBitsSwap listSource 4 32
          (lsbBits 8 b0.toNat ++ lsbBits 8 b1.toNat ++ lsbBits 8 b2.toNat ++ lsbBits 8 b3.toNat ++ rest) =
        some (b0.toNat * 2 ^ 24 + b1.toNat * 2 ^ 16 + b2.toNat * 2 ^ 8 + b3.toNat, rest)

/-- Every table BUILD returns is a prefix code of codes that fit their lengths (41_huffman_tables.md R160, 41_huffman_tables.md R163, 41_huffman_tables.md R164, 41_huffman_tables.md R168). -/
def Obligations.BuildGivesPrefixCodes : Prop :=
  ∀ (n : Nat) (allowEmpty : Bool) (t : Table), Built n allowEmpty t → Fits n t ∧ PrefixCode t

/-- Every table BUILD returns is complete or empty: every bit sequence starts with exactly one code (41_huffman_tables.md R161, 41_huffman_tables.md R167, 41_huffman_tables.md R165). -/
def Obligations.BuildGivesCompleteTables : Prop :=
  ∀ (lengths : List Nat) (allowEmpty : Bool) (t : Table), (∀ l ∈ lengths, l ≤ 15) → build lengths allowEmpty = .ok t →
    (t = [] ∧ allowEmpty = true ∧ ∀ l ∈ lengths, l = 0) ∨ Complete t

/-- With two or more codes BUILD rejects over-full lists, rejects incomplete ones and accepts the others, by the sum of 2^(-len) (41_huffman_tables.md R163, 41_huffman_tables.md R167, 60_exceptions.md R312, 60_exceptions.md R313). -/
def Obligations.BuildDecidesByTheCodeSpace : Prop :=
  ∀ (lengths : List Nat) (allowEmpty : Bool), (∀ l ∈ lengths, l ≤ 15) → 2 ≤ (lengths.filter (· ≠ 0)).length →
    (build lengths allowEmpty = .error .eHuffOverfull ↔ 2 ^ 15 < kraft lengths) ∧
    (build lengths allowEmpty = .error .eHuffIncomplete ↔ kraft lengths < 2 ^ 15) ∧
    ((∃ t, build lengths allowEmpty = .ok t) ↔ kraft lengths = 2 ^ 15)

/-- A list with one code gives both one-bit codes to its symbol, which either bit decodes; a list with none is the empty table or incomplete (41_huffman_tables.md R166, 41_huffman_tables.md R165, 41_huffman_tables.md R171). -/
def Obligations.SingleCodesAreRepaired : Prop :=
  (∀ (lengths : List Nat) (allowEmpty : Bool) (s l : Nat), lengths[s]? = some l → l ≠ 0 →
      (∀ k m, lengths[k]? = some m → k ≠ s → m = 0) →
      build lengths allowEmpty = .ok [⟨1, 0, s⟩, ⟨1, 1, s⟩]) ∧
    (∀ (σ : Type) (src : Source σ) (s : Nat) (b : Bool) (c c' : σ), src.bit c = some (b, c') →
      decodeSym src [⟨1, 0, s⟩, ⟨1, 1, s⟩] c = some (s, c')) ∧
    ∀ n : Nat, build (List.replicate n 0) true = .ok [] ∧ build (List.replicate n 0) false = .error .eHuffIncomplete

/-- Every coded symbol has a code of its length; within a length codes rise with the symbol; shorter codes lie below longer ones (41_huffman_tables.md R164, 41_huffman_tables.md R162). -/
def Obligations.CodesAreAssignedInCanonicalOrder : Prop :=
  ∀ (lengths : List Nat) (allowEmpty : Bool) (t : Table), 2 ≤ (lengths.filter (· ≠ 0)).length →
    build lengths allowEmpty = .ok t →
    (t.map fun e => (e.sym, e.len)) =
      ((List.range lengths.length).map fun s => (s, lengths.getD s 0)).filter (fun p => p.2 ≠ 0) ∧
    (∀ e ∈ t, ∀ f ∈ t, e.len = f.len → e.sym < f.sym → e.code < f.code) ∧
    (∀ e ∈ t, ∀ f ∈ t, e.len < f.len → e.code < f.code / 2 ^ (f.len - e.len))

/-- The fixed tables give every symbol the code that R101 lists (30_encoding.md R101, 41_huffman_tables.md R169, 41_huffman_tables.md R170). -/
def Obligations.FixedCodesAreThoseOfTheSpec : Prop :=
  (∀ s < 144, codeBits fixedLL s = some (msbBits 8 (0x30 + s))) ∧
    (∀ s < 112, codeBits fixedLL (144 + s) = some (msbBits 9 (0x190 + s))) ∧
    (∀ s < 24, codeBits fixedLL (256 + s) = some (msbBits 7 s)) ∧
    (∀ s < 8, codeBits fixedLL (280 + s) = some (msbBits 8 (0xC0 + s))) ∧
    (∀ d < 32, codeBits fixedD d = some (msbBits 5 d))

/-- The state after reset meets the invariant (70_reset_and_hazards.md R350, 10_state.md R30). -/
def Obligations.ResetMeetsTheInvariant : Prop :=
  State.reset.Inv

/-- The invariant holds after every step that starts in it, the host's steps included (10_state.md R30, 10_state.md R21, 10_state.md R37, 10_state.md R39, 10_state.md R43, 20_memory.md R63, 20_memory.md R73, 45_zlib_framer.md R290). -/
def Obligations.EveryStepKeepsTheInvariant : Prop :=
  ∀ s t : State, s.Inv → step s = .next t → t.Inv

/-- From a state that meets the invariant no step faults, and only a host operation is ever refused (43_lz77_window.md R254, 20_memory.md R74, 10_state.md R32, 70_reset_and_hazards.md R360). -/
def Obligations.TheMachineNeverFaultsAndTheEngineNeverStops : Prop :=
  ∀ s : State, s.Inv →
    (∀ r, step s ≠ .fault r) ∧
    (∀ r, step s = .refused r → r = .hostChangesRun ∨ r = .noSuchCsr) ∧
    (s.hostOps = [] → ∃ t, step s = .next t)

/-- With the input ended and the sink ready every run reaches DONE or FAILED (42_block_engine.md R203, 44_decompress_toplevel.md R270, 60_exceptions.md R318). -/
def Obligations.EveryRunEnds : Prop :=
  ∀ s : State, s.Inv → s.hostOps = [] → s.phase.busy = true → s.inEnded = true → s.sinkReady = true →
    ∃ n t, Sys2Proof.core.run n s = .next t ∧ (t.phase = .done ∨ t.phase = .failed)

/-- START makes two states alike whatever earlier runs left, and every engine step keeps them alike (70_reset_and_hazards.md R352, 70_reset_and_hazards.md R353, 43_lz77_window.md R254, 46_streaming_adapter.md R305). -/
def Obligations.ARunDependsOnlyOnItsInput : Prop :=
  (∀ s t : State, s.phase.busy = false → t.phase.busy = false →
      s.hostOps = t.hostOps → s.input = t.input → s.inLen = t.inLen → s.inEnded = t.inEnded →
      s.sinkReady = t.sinkReady → s.startOff = t.startOff → s.ctrlMode = t.ctrlMode → SameRun s.start t.start) ∧
    ∀ s t s' : State, SameRun s t → s.Inv → s.hostOps = [] → step s = .next s' →
      ∃ t', step t = .next t' ∧ SameRun s' t'

/-- A step depends on no input byte beyond the cursor it leaves (20_memory.md R61, 20_memory.md R62, 44_decompress_toplevel.md R272). -/
def Obligations.BytesAheadAreNotExamined : Prop :=
  ∀ (s t : State) (m : Mem) (n : Nat), s.hostOps = [] → step s = .next t → t ≠ s → t.phase ≠ .failed →
    (∀ p < t.cur.inPos, State.inByte { s with input := m, inLen := n } p = s.inByte p) →
    step { s with input := m, inLen := n } = .next { t with input := m, inLen := n }

/-- The element steps of one engine step compose to EngineStep() exactly as R202 and the rules under it write it (42_block_engine.md R202, 42_block_engine.md R205, 42_block_engine.md R206, 42_block_engine.md R210, 42_block_engine.md R211, 42_block_engine.md R239, 41_huffman_tables.md section 5, 00_scope.md R4, 60_exceptions.md R325, notes/assumptions/1.md). -/
def Obligations.EngineStepsAreTheRulesEngineSteps : Prop :=
  ∀ s : State, s.Inv → s.phase = .body → s.mid = .settled → s.inEnded = true → s.sinkReady = true →
    State.engineStep 400 s = refEngineStep s

/-- NextValue repeats the engine step until the result is not NONE and answers that byte, end or error (42_block_engine.md R203, 42_block_engine.md R202, 60_exceptions.md R329, notes/assumptions/1.md). -/
def Obligations.NextValueRepeatsEngineSteps : Prop :=
  ∀ s : State, s.Inv → s.phase = .body → s.mid = .settled → s.inEnded = true → s.sinkReady = true →
    (∀ u, State.engineStep 400 s = .next u → stepResult s u ≠ .none → s.nextValue = .next (stepResult s u, u)) ∧
    (∀ u, State.engineStep 400 s = .next u → stepResult s u = .none →
      s.nextValue = u.nextValue ∧ s.cur.bitAddr < u.cur.bitAddr ∧ u.out = s.out) ∧
    ∃ r t, s.nextValue = .next (r, t) ∧
      ((∃ b, r = .byte b ∧ t.phase = .body ∧ t.out = s.out ++ [b] ∧ t.totalOut = s.totalOut + 1) ∨
       (r = .bodyEnd ∧ (t.phase = .done ∨ t.phase = .ztrailer) ∧ t.out = s.out ∧ t.totalOut = s.totalOut) ∨
       (∃ e, r = .raised e ∧ FailsWith s t e)) ∧
      (s.hostOps = [] → ∃ n, Sys2Proof.core.run n s = .next t)

/-- A copy of length n emits n bytes, each equal to the one copy_dist bytes before it, overlap included (43_lz77_window.md R252, 43_lz77_window.md R253, 20_memory.md R77, 42_block_engine.md R211). -/
def Obligations.AWholeCopyRepeatsTheDistance : Prop :=
  ∀ s : State, s.Inv → s.hostOps = [] → s.point = .copy → s.sinkReady = true →
    ∃ t, Sys2Proof.core.run s.copyLen.toNat s = .next t ∧ t.copyLen = 0#9 ∧ t.cur = s.cur ∧
      t.out.length = s.out.length + s.copyLen.toNat ∧ t.out.take s.out.length = s.out ∧
      ∀ k < s.copyLen.toNat, t.out[s.out.length + k]? = t.out[s.out.length + k - s.copyDist.toNat]?

/-- An engine element step appends at most one byte to OUT, counts it, and never writes IN (00_scope.md R4, 20_memory.md R65, 20_memory.md R66, 20_memory.md R61). -/
def Obligations.EngineStepsEmitAtMostOneByte : Prop :=
  ∀ s t : State, s.engine = .next t →
    ∃ bytes : List Byte, bytes.length ≤ 1 ∧ t.out = s.out ++ bytes ∧ t.totalOut = s.totalOut + bytes.length ∧
      t.input = s.input ∧ t.inLen = s.inLen ∧ t.inEnded = s.inEnded ∧ t.hostOps = s.hostOps ∧
      t.sinkReady = s.sinkReady ∧ t.ctrlMode = s.ctrlMode ∧ t.startOff = s.startOff

/-- After a table word is placed the next step runs the element the decoder reads from that word (30_encoding.md R91, notes/assumptions/13.md, notes/assumptions/14.md). -/
def Obligations.ThePlacedTableWordIsTheOneFetched : Prop :=
  ∀ (s : State) (nbits w : Nat) (i : Instr), Mem.wf s.input → decodeTableWord nbits w = some i →
    let p := s.withFetchWord nbits w
    ∃ c cur, p.point = .element i.format ∧ p.ctx i.format = some c ∧ decode p.source c p.cur = .elem i cur ∧
      step p = exec i { p with cur := cur }
end

