-- ==== Sys2Proof/Laws/Bitstream.lean ====
section
/-! SUPPORT. The bitstream operations: one spec lemma for each over any source, and the cursor as a source. -/

namespace Sys2Proof.Machine

variable {σ : Type}

@[simp] theorem eatBits_zero (src : Source σ) (s : σ) : eatBits src 0 s = some (0, s) := rfl

@[simp] theorem lsbBits_length (n v : Nat) : (lsbBits n v).length = n := by
  induction n generalizing v with
  | zero => rfl
  | succ n ih => simp [lsbBits, ih]

@[simp] theorem msbBits_length (n v : Nat) : (msbBits n v).length = n := by simp [msbBits]

@[simp] theorem listSource_bit_cons (b : Bool) (bs : List Bool) : listSource.bit (b :: bs) = some (b, bs) := rfl

@[simp] theorem listSource_bit_nil : listSource.bit [] = none := rfl

/-- What one more bit does (R141). -/
theorem eatBits_succ (src : Source σ) (n : Nat) (s : σ) :
    eatBits src (n + 1) s =
      (src.bit s).bind fun p => (eatBits src n p.2).map fun q => (p.1.toNat + 2 * q.1, q.2) := by
  simp only [eatBits]
  cases src.bit s with
  | none => rfl
  | some p => simp only [Option.bind_some]; cases eatBits src n p.2 <;> rfl

/-- A field of `n` bits is below `2 ^ n` (R141). -/
theorem eatBits_lt (src : Source σ) (n : Nat) (s : σ) {v : Nat} {s' : σ} (h : eatBits src n s = some (v, s')) :
    v < 2 ^ n := by
  induction n generalizing s v s' with
  | zero => simp at h; omega
  | succ n ih =>
    rw [eatBits_succ] at h
    cases hb : src.bit s with
    | none => simp [hb] at h
    | some p =>
      cases hq : eatBits src n p.2 with
      | none => simp [hb, hq] at h
      | some q =>
        have := ih p.2 (v := q.1) (s' := q.2) (by simp [hq])
        simp [hb, hq] at h
        have hp : p.1.toNat ≤ 1 := by cases p.1 <;> simp
        rw [Nat.pow_succ]
        omega

/-- What `NextBit` does at a byte boundary: the next byte is fetched and its bit 0 taken (R140). -/
theorem nextBit_fetch (fetch : Nat → Option Byte) (p : Nat) (b0 : Byte) :
    nextBit fetch ⟨p, 0#3, b0⟩ = (fetch p).map fun b => (b.getLsbD 0, ⟨p + 1, 1#3, b⟩) := by
  cases h : fetch p <;> simp [nextBit, inFetch, h]

/-- What `NextBit` does inside a byte: the buffered byte gives the bit and nothing is fetched (R140). -/
theorem nextBit_buffered (fetch : Nat → Option Byte) (c : Cursor) (h : c.bitIdx ≠ 0#3) :
    nextBit fetch c = some (c.curByte.getLsbD c.bitIdx.toNat, { c with bitIdx := c.bitIdx + 1#3 }) := by
  simp [nextBit, h]

/-- `ALIGN` at a byte boundary does nothing (R145). -/
theorem Cursor.align_of_aligned (c : Cursor) (h : c.bitIdx = 0#3) : c.align = c := by
  cases c; simp_all [Cursor.align]

end Sys2Proof.Machine
end

