-- ==== Sys2Proof/Laws/Huffman.lean ====
section
/-! SUPPORT. BUILD: one lemma that says everything it can answer; the fixed tables are what BUILD returns. -/

namespace Sys2Proof.Machine

/-- Everything `build` can answer (R165 to R168). -/
theorem build_cases (lengths : List Nat) (allowEmpty : Bool) :
    ((∀ l ∈ lengths, l = 0) ∧ build lengths allowEmpty = if allowEmpty then .ok [] else .error .eHuffIncomplete) ∨
    ((∃ l ∈ lengths, l ≠ 0) ∧
      ((overfull lengths = true ∧ build lengths allowEmpty = .error .eHuffOverfull) ∨
       (overfull lengths = false ∧
        ((∃ e, assign (firstCodes lengths) 0 lengths = [e] ∧ build lengths allowEmpty = .ok (singleCode e.sym)) ∨
         ((∀ e, assign (firstCodes lengths) 0 lengths ≠ [e]) ∧
          build lengths allowEmpty =
            if firstCode lengths (maxLen lengths) + codeCount lengths (maxLen lengths) = 2 ^ maxLen lengths
            then .ok (assign (firstCodes lengths) 0 lengths) else .error .eHuffIncomplete))))) := by
  by_cases h0 : ∀ l ∈ lengths, l = 0
  · refine .inl ⟨h0, ?_⟩
    have : lengths.all (· == 0) = true := by simpa using h0
    simp [build, this]
  · refine .inr ⟨by simpa using h0, ?_⟩
    have ha : lengths.all (· == 0) = false := by simpa using h0
    cases ho : overfull lengths with
    | true => exact .inl ⟨rfl, by simp [build, ha, ho]⟩
    | false =>
      refine .inr ⟨rfl, ?_⟩
      cases hs : assign (firstCodes lengths) 0 lengths with
      | nil => exact .inr ⟨by simp, by simp [build, ha, ho, hs]⟩
      | cons e t =>
        cases t with
        | nil => exact .inl ⟨e, rfl, by simp [build, ha, ho, hs]⟩
        | cons f t => exact .inr ⟨by simp, by simp [build, ha, ho, hs]⟩

/-- The only errors of BUILD (R168). -/
theorem build_error {lengths : List Nat} {allowEmpty : Bool} {e : ErrCode} (h : build lengths allowEmpty = .error e) :
    e = .eHuffOverfull ∨ e = .eHuffIncomplete := by
  rcases build_cases lengths allowEmpty with ⟨_, hb⟩ | ⟨_, ⟨_, hb⟩ | ⟨_, ⟨_, _, hb⟩ | ⟨_, hb⟩⟩⟩ <;> rw [hb] at h
  · split at h <;> simp_all
  · simp_all
  · simp at h
  · split at h <;> simp_all

set_option maxRecDepth 20000 in
/-- The fixed literal/length table is what BUILD returns (R169). -/
theorem build_fixedLL : build fixedLengths false = .ok fixedLL := by rfl

/-- The fixed distance table is what BUILD returns, whether an empty table is allowed or not (R170). -/
theorem build_fixedD (allowEmpty : Bool) : build (List.replicate 32 5) allowEmpty = .ok fixedD := by
  cases allowEmpty <;> rfl

theorem fixedLL_built : Built 288 false fixedLL :=
  ⟨fixedLengths, by decide +kernel, by decide +kernel, build_fixedLL⟩

theorem fixedD_built : Built 32 true fixedD :=
  ⟨List.replicate 32 5, by decide, by simp [Config.maxBits], build_fixedD true⟩

end Sys2Proof.Machine
end

