-- ==== Sys2Proof/Laws/Memory.lean ====
section
/-! SUPPORT. Memory: read after write, and every operation keeps the canonical form. -/

namespace Sys2Proof.Machine

@[simp] theorem Mem.read_nil (p : Nat) : Mem.read [] p = none := rfl

theorem Mem.wf_nil : Mem.wf ([] : Mem) := List.Pairwise.nil

/-- A read of the address just written gives the byte written. -/
@[simp] theorem Mem.read_write_same (m : Mem) (p : Nat) (v : Byte) : (Mem.write m p v).read p = some v := by
  induction m with
  | nil => simp [Mem.write, Mem.read]
  | cons c m ih =>
    obtain ⟨a, b⟩ := c
    by_cases h1 : p < a
    · simp [Mem.write, h1, Mem.read]
    · by_cases h2 : p = a
      · simp [Mem.write, h2, Mem.read]
      · simp [Mem.write, h1, h2, Mem.read, Ne.symm h2, ih]

/-- Every address of a canonical tail lies above the head's. -/
theorem Mem.read_below {a : Nat} {m : Mem} (h : ∀ c ∈ m, a < c.1) {q : Nat} (hq : q ≤ a) : Mem.read m q = none := by
  cases m with
  | nil => rfl
  | cons c m =>
    have := h c (by simp)
    simp [Mem.read, show c.1 ≠ q by omega, show q < c.1 by omega]

/-- A write leaves every other address alone. -/
theorem Mem.read_write_other (m : Mem) (hm : Mem.wf m) {p q : Nat} (h : q ≠ p) (v : Byte) :
    (Mem.write m p v).read q = m.read q := by
  induction m with
  | nil => simp [Mem.write, Mem.read, h.symm]
  | cons c m ih =>
    obtain ⟨a, b⟩ := c
    obtain ⟨ha, hm'⟩ := List.pairwise_cons.1 hm
    by_cases h1 : p < a
    · by_cases h3 : q < p
      · simp [Mem.write, h1, Mem.read, h.symm, h3, show a ≠ q by omega, show q < a by omega]
      · simp [Mem.write, h1, Mem.read, h.symm, h3]
    · by_cases h2 : p = a
      · subst h2
        simp [Mem.write, Mem.read, h.symm]
      · simp only [Mem.write, h1, h2, if_false, Mem.read]
        rw [ih hm']

/-- The addresses a write adds: the one written. -/
theorem Mem.mem_write {m : Mem} {p : Nat} {v : Byte} {c : Host.Cell} (h : c ∈ Mem.write m p v) : c = (p, v) ∨ c ∈ m := by
  induction m with
  | nil => simpa [Mem.write] using h
  | cons d m ih =>
    obtain ⟨a, b⟩ := d
    by_cases h1 : p < a
    · simpa [Mem.write, h1] using h
    · by_cases h2 : p = a
      · subst h2
        simp [Mem.write] at h
        rcases h with h | h
        · exact .inl h
        · exact .inr (by simp [h])
      · simp [Mem.write, h1, h2] at h
        rcases h with h | h
        · exact .inr (by simp [h])
        · rcases ih h with h | h
          · exact .inl h
          · exact .inr (by simp [h])

/-- A write keeps the canonical form. -/
theorem Mem.write_wf (m : Mem) (hm : Mem.wf m) (p : Nat) (v : Byte) : Mem.wf (Mem.write m p v) := by
  induction m with
  | nil => simp [Mem.write, Mem.wf]
  | cons c m ih =>
    obtain ⟨a, b⟩ := c
    obtain ⟨ha, hm'⟩ := List.pairwise_cons.1 hm
    by_cases h1 : p < a
    · simp only [Mem.write, h1, if_true]
      refine List.pairwise_cons.2 ⟨fun d hd => ?_, hm⟩
      rcases List.mem_cons.1 hd with rfl | hd
      · exact h1
      · exact Nat.lt_trans h1 (ha d hd)
    · by_cases h2 : p = a
      · subst h2
        simp only [Mem.write, lt_irrefl, if_false, if_true]
        exact List.pairwise_cons.2 ⟨ha, hm'⟩
      · simp only [Mem.write, h1, h2, if_false]
        refine List.pairwise_cons.2 ⟨fun d hd => ?_, ih hm'⟩
        rcases Mem.mem_write hd with rfl | hd
        · simp; omega
        · exact ha d hd

/-- Storing consecutive bytes keeps the canonical form. -/
theorem Mem.writeBytes_wf (m : Mem) (hm : Mem.wf m) (p : Nat) (bs : List Byte) : Mem.wf (Mem.writeBytes m p bs) := by
  induction bs generalizing m p with
  | nil => exact hm
  | cons b bs ih => exact ih _ (Mem.write_wf m hm p b) _

/-- Storing consecutive bytes leaves the addresses outside them alone. -/
theorem Mem.read_writeBytes_other (m : Mem) (hm : Mem.wf m) (p : Nat) (bs : List Byte) {q : Nat}
    (h : q < p ∨ p + bs.length ≤ q) : (Mem.writeBytes m p bs).read q = m.read q := by
  induction bs generalizing m p with
  | nil => rfl
  | cons b bs ih =>
    simp only [List.length_cons] at h
    rw [Mem.writeBytes, ih _ (Mem.write_wf m hm p b) _ (by omega), Mem.read_write_other m hm (by omega)]

/-- Storing consecutive bytes stores each of them. -/
theorem Mem.read_writeBytes (m : Mem) (hm : Mem.wf m) (p : Nat) (bs : List Byte) (k : Nat) (hk : k < bs.length) :
    (Mem.writeBytes m p bs).read (p + k) = some bs[k] := by
  induction bs generalizing m p k with
  | nil => simp at hk
  | cons b bs ih =>
    cases k with
    | zero =>
      rw [Mem.writeBytes, Nat.add_zero, Mem.read_writeBytes_other _ (Mem.write_wf m hm p b) _ _ (by omega)]
      simp
    | succ k =>
      have := ih (m.write p b) (Mem.write_wf m hm p b) (p + 1) k (by simpa using hk)
      simpa [Mem.writeBytes, Nat.add_assoc, Nat.add_comm 1] using this

/-- PUSH keeps the window canonical. -/
theorem State.push_wf (s : State) (h : Mem.wf s.window) (b : Byte) : Mem.wf (s.push b).window :=
  Mem.write_wf _ h _ _

/-- PUSH keeps the window inside its 65536 cells (R250). -/
theorem State.push_window_index (s : State) (h : ∀ c ∈ s.window, c.1 < Config.windowSize) (b : Byte) :
    ∀ c ∈ (s.push b).window, c.1 < Config.windowSize := by
  intro c hc
  rcases Mem.mem_write hc with rfl | hc
  · exact s.wpos.isLt
  · exact h c hc

/-- The window after PUSH: the new byte at `wpos`, every other cell as before (R251). -/
theorem State.push_read (s : State) (h : Mem.wf s.window) (b : Byte) (a : Nat) :
    (s.push b).window.read a = if a = s.wpos.toNat then some b else s.window.read a := by
  by_cases ha : a = s.wpos.toNat
  · subst ha; simp [State.push]
  · simpa [State.push, ha] using Mem.read_write_other s.window h ha b

/-- Reset memory is canonical. -/
theorem State.reset_memory_wf : Mem.wf State.reset.input ∧ Mem.wf State.reset.window :=
  ⟨Mem.wf_nil, Mem.wf_nil⟩

end Sys2Proof.Machine
end

