-- ==== Sys2Proof/Laws/State.lean ====
section
/-! SUPPORT. One lemma per field per update of the state, so that no proof unfolds a record update. -/

namespace Sys2Proof.Machine

/-! The end of an engine step. -/

@[simp] theorem State.settle_hostOps (s : State) : (s.settle).hostOps = s.hostOps := rfl
@[simp] theorem State.settle_input (s : State) : (s.settle).input = s.input := rfl
@[simp] theorem State.settle_inLen (s : State) : (s.settle).inLen = s.inLen := rfl
@[simp] theorem State.settle_inEnded (s : State) : (s.settle).inEnded = s.inEnded := rfl
@[simp] theorem State.settle_out (s : State) : (s.settle).out = s.out := rfl
@[simp] theorem State.settle_sinkReady (s : State) : (s.settle).sinkReady = s.sinkReady := rfl
@[simp] theorem State.settle_ctrlMode (s : State) : (s.settle).ctrlMode = s.ctrlMode := rfl
@[simp] theorem State.settle_startOff (s : State) : (s.settle).startOff = s.startOff := rfl
@[simp] theorem State.settle_phase (s : State) : (s.settle).phase = s.phase := rfl
@[simp] theorem State.settle_mode (s : State) : (s.settle).mode = s.mode := rfl
@[simp] theorem State.settle_err (s : State) : (s.settle).err = s.err := rfl
@[simp] theorem State.settle_endPos (s : State) : (s.settle).endPos = s.endPos := rfl
@[simp] theorem State.settle_cmf (s : State) : (s.settle).cmf = s.cmf := rfl
@[simp] theorem State.settle_flg (s : State) : (s.settle).flg = s.flg := rfl
@[simp] theorem State.settle_cur (s : State) : (s.settle).cur = s.cur := rfl
@[simp] theorem State.settle_bstate (s : State) : (s.settle).bstate = s.bstate := rfl
@[simp] theorem State.settle_finalSeen (s : State) : (s.settle).finalSeen = s.finalSeen := rfl
@[simp] theorem State.settle_rawRemaining (s : State) : (s.settle).rawRemaining = s.rawRemaining := rfl
@[simp] theorem State.settle_copyLen (s : State) : (s.settle).copyLen = s.copyLen := rfl
@[simp] theorem State.settle_copyDist (s : State) : (s.settle).copyDist = s.copyDist := rfl
@[simp] theorem State.settle_wpos (s : State) : (s.settle).wpos = s.wpos := rfl
@[simp] theorem State.settle_totalOut (s : State) : (s.settle).totalOut = s.totalOut := rfl
@[simp] theorem State.settle_window (s : State) : (s.settle).window = s.window := rfl
@[simp] theorem State.settle_llTable (s : State) : (s.settle).llTable = s.llTable := rfl
@[simp] theorem State.settle_distTable (s : State) : (s.settle).distTable = s.distTable := rfl
@[simp] theorem State.settle_adlerA (s : State) : (s.settle).adlerA = s.adlerA := rfl
@[simp] theorem State.settle_adlerB (s : State) : (s.settle).adlerB = s.adlerB := rfl
@[simp] theorem State.settle_mid (s : State) : (s.settle).mid = .settled := rfl
@[simp] theorem State.settle_shown (s : State) : (s.settle).shown = ⟨s.cur.inPos, s.cur.bitIdx, s.finalSeen⟩ := rfl
@[simp] theorem State.settle_fresh (s : State) : (s.settle).fresh = s.fresh := rfl

/-! PUSH (R251). -/

@[simp] theorem State.push_hostOps (s : State) (b : Byte) : (s.push b).hostOps = s.hostOps := rfl
@[simp] theorem State.push_input (s : State) (b : Byte) : (s.push b).input = s.input := rfl
@[simp] theorem State.push_inLen (s : State) (b : Byte) : (s.push b).inLen = s.inLen := rfl
@[simp] theorem State.push_inEnded (s : State) (b : Byte) : (s.push b).inEnded = s.inEnded := rfl
@[simp] theorem State.push_out (s : State) (b : Byte) : (s.push b).out = s.out ++ [b] := rfl
@[simp] theorem State.push_sinkReady (s : State) (b : Byte) : (s.push b).sinkReady = s.sinkReady := rfl
@[simp] theorem State.push_ctrlMode (s : State) (b : Byte) : (s.push b).ctrlMode = s.ctrlMode := rfl
@[simp] theorem State.push_startOff (s : State) (b : Byte) : (s.push b).startOff = s.startOff := rfl
@[simp] theorem State.push_phase (s : State) (b : Byte) : (s.push b).phase = s.phase := rfl
@[simp] theorem State.push_mode (s : State) (b : Byte) : (s.push b).mode = s.mode := rfl
@[simp] theorem State.push_err (s : State) (b : Byte) : (s.push b).err = s.err := rfl
@[simp] theorem State.push_endPos (s : State) (b : Byte) : (s.push b).endPos = s.endPos := rfl
@[simp] theorem State.push_cmf (s : State) (b : Byte) : (s.push b).cmf = s.cmf := rfl
@[simp] theorem State.push_flg (s : State) (b : Byte) : (s.push b).flg = s.flg := rfl
@[simp] theorem State.push_cur (s : State) (b : Byte) : (s.push b).cur = s.cur := rfl
@[simp] theorem State.push_bstate (s : State) (b : Byte) : (s.push b).bstate = s.bstate := rfl
@[simp] theorem State.push_finalSeen (s : State) (b : Byte) : (s.push b).finalSeen = s.finalSeen := rfl
@[simp] theorem State.push_rawRemaining (s : State) (b : Byte) : (s.push b).rawRemaining = s.rawRemaining := rfl
@[simp] theorem State.push_copyLen (s : State) (b : Byte) : (s.push b).copyLen = s.copyLen := rfl
@[simp] theorem State.push_copyDist (s : State) (b : Byte) : (s.push b).copyDist = s.copyDist := rfl
@[simp] theorem State.push_wpos (s : State) (b : Byte) : (s.push b).wpos = s.wpos + 1#16 := rfl
@[simp] theorem State.push_totalOut (s : State) (b : Byte) : (s.push b).totalOut = s.totalOut + 1 := rfl
@[simp] theorem State.push_window (s : State) (b : Byte) : (s.push b).window = s.window.write s.wpos.toNat b := rfl
@[simp] theorem State.push_llTable (s : State) (b : Byte) : (s.push b).llTable = s.llTable := rfl
@[simp] theorem State.push_distTable (s : State) (b : Byte) : (s.push b).distTable = s.distTable := rfl
@[simp] theorem State.push_adlerA (s : State) (b : Byte) : (s.push b).adlerA = adlerNextA s.adlerA b := rfl
@[simp] theorem State.push_adlerB (s : State) (b : Byte) : (s.push b).adlerB = adlerNextB s.adlerB (adlerNextA s.adlerA b) := rfl
@[simp] theorem State.push_mid (s : State) (b : Byte) : (s.push b).mid = s.mid := rfl
@[simp] theorem State.push_shown (s : State) (b : Byte) : (s.push b).shown = s.shown := rfl
@[simp] theorem State.push_fresh (s : State) (b : Byte) : (s.push b).fresh = s.fresh := rfl

/-! The abort of a run (R326). -/

@[simp] theorem State.raise_hostOps (s : State) (e : ErrCode) : (s.raise e).hostOps = s.hostOps := rfl
@[simp] theorem State.raise_input (s : State) (e : ErrCode) : (s.raise e).input = s.input := rfl
@[simp] theorem State.raise_inLen (s : State) (e : ErrCode) : (s.raise e).inLen = s.inLen := rfl
@[simp] theorem State.raise_inEnded (s : State) (e : ErrCode) : (s.raise e).inEnded = s.inEnded := rfl
@[simp] theorem State.raise_out (s : State) (e : ErrCode) : (s.raise e).out = s.out := rfl
@[simp] theorem State.raise_sinkReady (s : State) (e : ErrCode) : (s.raise e).sinkReady = s.sinkReady := rfl
@[simp] theorem State.raise_ctrlMode (s : State) (e : ErrCode) : (s.raise e).ctrlMode = s.ctrlMode := rfl
@[simp] theorem State.raise_startOff (s : State) (e : ErrCode) : (s.raise e).startOff = s.startOff := rfl
@[simp] theorem State.raise_phase (s : State) (e : ErrCode) : (s.raise e).phase = .failed := rfl
@[simp] theorem State.raise_mode (s : State) (e : ErrCode) : (s.raise e).mode = s.mode := rfl
@[simp] theorem State.raise_err (s : State) (e : ErrCode) : (s.raise e).err = e := rfl
@[simp] theorem State.raise_endPos (s : State) (e : ErrCode) : (s.raise e).endPos = s.endPos := rfl
@[simp] theorem State.raise_cmf (s : State) (e : ErrCode) : (s.raise e).cmf = BitVec.ofNat 8 (Config.freeNat 9 s.fresh) := rfl
@[simp] theorem State.raise_flg (s : State) (e : ErrCode) : (s.raise e).flg = BitVec.ofNat 8 (Config.freeNat 10 s.fresh) := rfl
@[simp] theorem State.raise_cur (s : State) (e : ErrCode) : (s.raise e).cur = freeCursor s.fresh := rfl
@[simp] theorem State.raise_bstate (s : State) (e : ErrCode) : (s.raise e).bstate = bstateOf (Config.freeNat 3 s.fresh) := rfl
@[simp] theorem State.raise_finalSeen (s : State) (e : ErrCode) : (s.raise e).finalSeen = (Config.freeNat 4 s.fresh % 2 == 1) := rfl
@[simp] theorem State.raise_rawRemaining (s : State) (e : ErrCode) : (s.raise e).rawRemaining = BitVec.ofNat 16 (Config.freeNat 5 s.fresh) := rfl
@[simp] theorem State.raise_copyLen (s : State) (e : ErrCode) : (s.raise e).copyLen = BitVec.ofNat 9 (Config.freeNat 6 s.fresh) := rfl
@[simp] theorem State.raise_copyDist (s : State) (e : ErrCode) : (s.raise e).copyDist = BitVec.ofNat 16 (Config.freeNat 7 s.fresh) := rfl
@[simp] theorem State.raise_wpos (s : State) (e : ErrCode) : (s.raise e).wpos = BitVec.ofNat 16 (Config.freeNat 8 s.fresh) := rfl
@[simp] theorem State.raise_totalOut (s : State) (e : ErrCode) : (s.raise e).totalOut = s.totalOut := rfl
@[simp] theorem State.raise_window (s : State) (e : ErrCode) : (s.raise e).window = [] := rfl
@[simp] theorem State.raise_llTable (s : State) (e : ErrCode) : (s.raise e).llTable = Config.freeTable 0 s.fresh := rfl
@[simp] theorem State.raise_distTable (s : State) (e : ErrCode) : (s.raise e).distTable = Config.freeTable 1 s.fresh := rfl
@[simp] theorem State.raise_adlerA (s : State) (e : ErrCode) : (s.raise e).adlerA = s.adlerA := rfl
@[simp] theorem State.raise_adlerB (s : State) (e : ErrCode) : (s.raise e).adlerB = s.adlerB := rfl
@[simp] theorem State.raise_mid (s : State) (e : ErrCode) : (s.raise e).mid = .settled := rfl
@[simp] theorem State.raise_shown (s : State) (e : ErrCode) : (s.raise e).shown = ⟨(freeCursor s.fresh).inPos, (freeCursor s.fresh).bitIdx, Config.freeNat 4 s.fresh % 2 == 1⟩ := rfl
@[simp] theorem State.raise_fresh (s : State) (e : ErrCode) : (s.raise e).fresh = s.fresh + 1 := rfl

/-! The values START loads (R265). -/

@[simp] theorem State.loadEngine_hostOps (s : State) (p : Nat) : (s.loadEngine p).hostOps = s.hostOps := rfl
@[simp] theorem State.loadEngine_input (s : State) (p : Nat) : (s.loadEngine p).input = s.input := rfl
@[simp] theorem State.loadEngine_inLen (s : State) (p : Nat) : (s.loadEngine p).inLen = s.inLen := rfl
@[simp] theorem State.loadEngine_inEnded (s : State) (p : Nat) : (s.loadEngine p).inEnded = s.inEnded := rfl
@[simp] theorem State.loadEngine_out (s : State) (p : Nat) : (s.loadEngine p).out = s.out := rfl
@[simp] theorem State.loadEngine_sinkReady (s : State) (p : Nat) : (s.loadEngine p).sinkReady = s.sinkReady := rfl
@[simp] theorem State.loadEngine_ctrlMode (s : State) (p : Nat) : (s.loadEngine p).ctrlMode = s.ctrlMode := rfl
@[simp] theorem State.loadEngine_startOff (s : State) (p : Nat) : (s.loadEngine p).startOff = s.startOff := rfl
@[simp] theorem State.loadEngine_phase (s : State) (p : Nat) : (s.loadEngine p).phase = s.phase := rfl
@[simp] theorem State.loadEngine_mode (s : State) (p : Nat) : (s.loadEngine p).mode = s.mode := rfl
@[simp] theorem State.loadEngine_err (s : State) (p : Nat) : (s.loadEngine p).err = .eNone := rfl
@[simp] theorem State.loadEngine_endPos (s : State) (p : Nat) : (s.loadEngine p).endPos = 0 := rfl
@[simp] theorem State.loadEngine_cmf (s : State) (p : Nat) : (s.loadEngine p).cmf = 0#8 := rfl
@[simp] theorem State.loadEngine_flg (s : State) (p : Nat) : (s.loadEngine p).flg = 0#8 := rfl
@[simp] theorem State.loadEngine_cur (s : State) (p : Nat) : (s.loadEngine p).cur = ⟨p, 0#3, s.cur.curByte⟩ := rfl
@[simp] theorem State.loadEngine_bstate (s : State) (p : Nat) : (s.loadEngine p).bstate = .between := rfl
@[simp] theorem State.loadEngine_finalSeen (s : State) (p : Nat) : (s.loadEngine p).finalSeen = false := rfl
@[simp] theorem State.loadEngine_rawRemaining (s : State) (p : Nat) : (s.loadEngine p).rawRemaining = 0#16 := rfl
@[simp] theorem State.loadEngine_copyLen (s : State) (p : Nat) : (s.loadEngine p).copyLen = 0#9 := rfl
@[simp] theorem State.loadEngine_copyDist (s : State) (p : Nat) : (s.loadEngine p).copyDist = 0#16 := rfl
@[simp] theorem State.loadEngine_wpos (s : State) (p : Nat) : (s.loadEngine p).wpos = 0#16 := rfl
@[simp] theorem State.loadEngine_totalOut (s : State) (p : Nat) : (s.loadEngine p).totalOut = 0 := rfl
@[simp] theorem State.loadEngine_window (s : State) (p : Nat) : (s.loadEngine p).window = s.window := rfl
@[simp] theorem State.loadEngine_llTable (s : State) (p : Nat) : (s.loadEngine p).llTable = none := rfl
@[simp] theorem State.loadEngine_distTable (s : State) (p : Nat) : (s.loadEngine p).distTable = none := rfl
@[simp] theorem State.loadEngine_adlerA (s : State) (p : Nat) : (s.loadEngine p).adlerA = 1#16 := rfl
@[simp] theorem State.loadEngine_adlerB (s : State) (p : Nat) : (s.loadEngine p).adlerB = 0#16 := rfl
@[simp] theorem State.loadEngine_mid (s : State) (p : Nat) : (s.loadEngine p).mid = .settled := rfl
@[simp] theorem State.loadEngine_shown (s : State) (p : Nat) : (s.loadEngine p).shown = ⟨p, 0#3, false⟩ := rfl
@[simp] theorem State.loadEngine_fresh (s : State) (p : Nat) : (s.loadEngine p).fresh = s.fresh := rfl

/-! Hardware reset (R350). -/

@[simp] theorem State.hardReset_hostOps (s : State) : (s.hardReset).hostOps = s.hostOps := rfl
@[simp] theorem State.hardReset_input (s : State) : (s.hardReset).input = s.input := rfl
@[simp] theorem State.hardReset_inLen (s : State) : (s.hardReset).inLen = s.inLen := rfl
@[simp] theorem State.hardReset_inEnded (s : State) : (s.hardReset).inEnded = s.inEnded := rfl
@[simp] theorem State.hardReset_out (s : State) : (s.hardReset).out = s.out := rfl
@[simp] theorem State.hardReset_sinkReady (s : State) : (s.hardReset).sinkReady = s.sinkReady := rfl
@[simp] theorem State.hardReset_ctrlMode (s : State) : (s.hardReset).ctrlMode = State.reset.ctrlMode := rfl
@[simp] theorem State.hardReset_startOff (s : State) : (s.hardReset).startOff = State.reset.startOff := rfl
@[simp] theorem State.hardReset_phase (s : State) : (s.hardReset).phase = State.reset.phase := rfl
@[simp] theorem State.hardReset_mode (s : State) : (s.hardReset).mode = State.reset.mode := rfl
@[simp] theorem State.hardReset_err (s : State) : (s.hardReset).err = State.reset.err := rfl
@[simp] theorem State.hardReset_endPos (s : State) : (s.hardReset).endPos = State.reset.endPos := rfl
@[simp] theorem State.hardReset_cmf (s : State) : (s.hardReset).cmf = State.reset.cmf := rfl
@[simp] theorem State.hardReset_flg (s : State) : (s.hardReset).flg = State.reset.flg := rfl
@[simp] theorem State.hardReset_cur (s : State) : (s.hardReset).cur = State.reset.cur := rfl
@[simp] theorem State.hardReset_bstate (s : State) : (s.hardReset).bstate = State.reset.bstate := rfl
@[simp] theorem State.hardReset_finalSeen (s : State) : (s.hardReset).finalSeen = State.reset.finalSeen := rfl
@[simp] theorem State.hardReset_rawRemaining (s : State) : (s.hardReset).rawRemaining = State.reset.rawRemaining := rfl
@[simp] theorem State.hardReset_copyLen (s : State) : (s.hardReset).copyLen = State.reset.copyLen := rfl
@[simp] theorem State.hardReset_copyDist (s : State) : (s.hardReset).copyDist = State.reset.copyDist := rfl
@[simp] theorem State.hardReset_wpos (s : State) : (s.hardReset).wpos = State.reset.wpos := rfl
@[simp] theorem State.hardReset_totalOut (s : State) : (s.hardReset).totalOut = State.reset.totalOut := rfl
@[simp] theorem State.hardReset_window (s : State) : (s.hardReset).window = State.reset.window := rfl
@[simp] theorem State.hardReset_llTable (s : State) : (s.hardReset).llTable = State.reset.llTable := rfl
@[simp] theorem State.hardReset_distTable (s : State) : (s.hardReset).distTable = State.reset.distTable := rfl
@[simp] theorem State.hardReset_adlerA (s : State) : (s.hardReset).adlerA = State.reset.adlerA := rfl
@[simp] theorem State.hardReset_adlerB (s : State) : (s.hardReset).adlerB = State.reset.adlerB := rfl
@[simp] theorem State.hardReset_mid (s : State) : (s.hardReset).mid = State.reset.mid := rfl
@[simp] theorem State.hardReset_shown (s : State) : (s.hardReset).shown = State.reset.shown := rfl
@[simp] theorem State.hardReset_fresh (s : State) : (s.hardReset).fresh = s.fresh := rfl

/-! The cursor. -/

@[simp] theorem Cursor.align_inPos (c : Cursor) : c.align.inPos = c.inPos := rfl
@[simp] theorem Cursor.align_bitIdx (c : Cursor) : c.align.bitIdx = 0#3 := rfl
@[simp] theorem Cursor.align_curByte (c : Cursor) : c.align.curByte = c.curByte := rfl

/-- What is due does not depend on the cursor: moving past an element keeps the element's place. -/
@[simp] theorem State.point_cur (s : State) (c : Cursor) : State.point { s with cur := c } = s.point := rfl

/-- Raising an error forgets every engine register that an element step may have written before it. -/
theorem State.raise_forgets (s : State) (e : ErrCode) (c : Cursor) (f : Bool) (m : Mid) (cmf flg : Byte) :
    State.raise { s with cur := c, finalSeen := f, mid := m, cmf := cmf, flg := flg } e = s.raise e := rfl

/-- Settling twice is settling once. -/
@[simp] theorem State.settle_settle (s : State) : s.settle.settle = s.settle := rfl

end Sys2Proof.Machine
end

