-- ==== Sys2Proof/Laws/Ops.lean ====
section
/-! SUPPORT. One lemma per shared operation that says everything it can do; proofs cite these and do not unfold the operations. -/

namespace Sys2Proof.Machine

variable {s t : State}

/-- Two next states are the same outcome exactly when they are the same state. -/
@[simp] theorem next_eq_next {a b : State} :
    (Host.Outcome.next a : Host.Outcome State Fault Refusal) = .next b ↔ b = a :=
  ⟨fun h => by cases h; rfl, fun h => by rw [h]⟩

/-- The context check: where it answers a next state the element is due, and it is the effect that answers (R91). -/
theorem State.whenDue_next {f : Format} {effect : Host.Outcome State Fault Refusal} :
    s.whenDue f effect = .next t ↔ s.point = .element f ∧ effect = .next t := by
  unfold State.whenDue
  split <;> simp_all

@[simp] theorem State.whenDue_due {f : Format} {effect : Host.Outcome State Fault Refusal} (h : s.point = .element f) :
    s.whenDue f effect = effect := by
  simp [State.whenDue, h]

@[simp] theorem State.whenDue_notDue {f : Format} {effect : Host.Outcome State Fault Refusal} (h : s.point ≠ .element f) :
    s.whenDue f effect = .refused .notDue := by
  simp [State.whenDue, h]

/-- A length symbol (R214). -/
theorem State.lengthSymbol_next {length : BitVec 9} :
    s.lengthSymbol length = .next t ↔ s.point = .element .llSym ∧ t = { s with mid := .dist length } := by
  rw [State.lengthSymbol, State.whenDue_next, next_eq_next]

/-- The start of a copy (R239): an error, or the two copy registers. -/
theorem State.startCopy_cases (s : State) (length : BitVec 9) (distance : BitVec 16) :
    ((length = 0#9 ∨ distance = 0#16 ∨ s.totalOut < distance.toNat) ∧ s.startCopy length distance = s.raise .eBackref) ∨
    (length ≠ 0#9 ∧ distance ≠ 0#16 ∧ distance.toNat ≤ s.totalOut ∧
      s.startCopy length distance = State.settle { s with copyLen := length, copyDist := distance }) := by
  by_cases h : length = 0#9 ∨ distance = 0#16 ∨ s.totalOut < distance.toNat
  · exact .inl ⟨h, by simp only [State.startCopy, h, if_true]⟩
  · refine .inr ?_
    have h' := h
    simp only [not_or, not_lt] at h'
    exact ⟨h'.1, h'.2.1, h'.2.2, by simp only [State.startCopy, h, if_false]⟩

/-- A distance symbol (R223): due after a length symbol only. -/
theorem State.distanceSymbol_next {distance : BitVec 16} :
    s.distanceSymbol distance = .next t ↔
      ∃ length, s.mid = .dist length ∧ s.point = .element .dSym ∧ t = s.startCopy length distance := by
  unfold State.distanceSymbol
  cases h : s.mid <;> simp [State.whenDue_next, -Host.Outcome.next.injEq]

/-- A code-length symbol (R177 to R184): an error with no previous length, one more stretch of the list, or its end. -/
theorem State.codeLengths_next {produce : List (BitVec 4) → Option (List (BitVec 4))} :
    s.codeLengths produce = .next t ↔
      ∃ hlit hdist tab lens, s.mid = .clSyms hlit hdist tab lens ∧ s.point = .element .clSym ∧
        ((produce lens = none ∧ t = s.raise .eDynRepeat) ∨
         ∃ new, produce lens = some new ∧
          ((lens ++ new).length < nlit hlit + ndist hdist ∧ t = { s with mid := .clSyms hlit hdist tab (lens ++ new) } ∨
           nlit hlit + ndist hdist ≤ (lens ++ new).length ∧ t = s.finishLens hlit hdist (lens ++ new))) := by
  unfold State.codeLengths
  cases h : s.mid with
  | clSyms hlit hdist tab lens =>
    simp only [State.whenDue_next, next_eq_next]
    cases hp : produce lens with
    | none =>
      constructor
      · rintro ⟨hd, rfl⟩
        exact ⟨hlit, hdist, tab, lens, rfl, hd, .inl ⟨hp, rfl⟩⟩
      · rintro ⟨a, b, c, d, he, hd, h3⟩
        cases he
        rcases h3 with ⟨_, rfl⟩ | ⟨n, h4, _⟩
        · exact ⟨hd, rfl⟩
        · simp [hp] at h4
    | some new =>
      constructor
      · rintro ⟨hd, rfl⟩
        refine ⟨hlit, hdist, tab, lens, rfl, hd, .inr ⟨new, hp, ?_⟩⟩
        by_cases hl : (lens ++ new).length < nlit hlit + ndist hdist
        · exact .inl ⟨hl, by simp only [hl, if_true]⟩
        · exact .inr ⟨Nat.not_lt.1 hl, by simp only [hl, if_false]⟩
      · rintro ⟨a, b, c, d, he, hd, h3⟩
        cases he
        refine ⟨hd, ?_⟩
        rcases h3 with ⟨h4, _⟩ | ⟨n, h4, h5⟩
        · simp [hp] at h4
        · rw [hp] at h4
          cases h4
          rcases h5 with ⟨h6, rfl⟩ | ⟨h6, rfl⟩
          · simp only [h6, if_true]
          · simp only [Nat.not_lt.2 h6, if_false]
  | _ => simp

/-- The end of the code-length list (R181 to R184): one of five errors, or the block is open. -/
theorem State.finishLens_cases (s : State) (hlit hdist : BitVec 5) (lens : List (BitVec 4)) :
    (∃ e, s.finishLens hlit hdist lens = s.raise e ∧
      (e = .eDynCounts ∨ e = .eNoEob ∨ e = .eHuffOverfull ∨ e = .eHuffIncomplete)) ∨
    (∃ ll d, lens.length = nlit hlit + ndist hdist ∧
      build ((lens.map BitVec.toNat).take (nlit hlit)) false = .ok ll ∧
      build ((lens.map BitVec.toNat).drop (nlit hlit)) true = .ok d ∧
      s.finishLens hlit hdist lens = State.settle { s with llTable := some ll, distTable := some d, bstate := .dynamic }) := by
  by_cases h1 : lens.length = nlit hlit + ndist hdist
  · by_cases h2 : ((lens.map BitVec.toNat).take (nlit hlit)).getD Config.eobSym 0 = 0
    · exact .inl ⟨.eNoEob, by simp only [State.finishLens, h1, h2, ne_eq, not_true, if_false, if_true], by simp⟩
    · cases h3 : build ((lens.map BitVec.toNat).take (nlit hlit)) false with
      | error e =>
        refine .inl ⟨e, by simp only [State.finishLens, h1, h2, h3, ne_eq, not_true, if_false], ?_⟩
        rcases build_error h3 with rfl | rfl <;> simp
      | ok ll =>
        cases h4 : build ((lens.map BitVec.toNat).drop (nlit hlit)) true with
        | error e =>
          refine .inl ⟨e, by simp only [State.finishLens, h1, h2, h3, h4, ne_eq, not_true, if_false], ?_⟩
          rcases build_error h4 with rfl | rfl <;> simp
        | ok d =>
          exact .inr ⟨ll, d, h1, rfl, rfl, by simp only [State.finishLens, h1, h2, h3, h4, ne_eq, not_true, if_false]⟩
  · exact .inl ⟨.eDynCounts, by simp only [State.finishLens, h1, ne_eq, not_false_eq_true, if_true], by simp⟩

/-- The copy step (R252): a fault on a cell with no known value, else one byte. -/
theorem State.copyStep_next :
    s.copyStep = .next t ↔
      ∃ b, s.window.read s.copyAddr = some b ∧ t = State.settle { s.push b with copyLen := s.copyLen - 1#9 } := by
  unfold State.copyStep
  cases s.window.read s.copyAddr <;> simp [-Host.Outcome.next.injEq]

/-- START (R265, R266): ignored while busy, else the engine registers, the mode and the first phase. -/
theorem State.start_busy (h : s.phase.busy = true) : s.start = s := by
  simp [State.start, h]

theorem State.start_idle (h : s.phase.busy = false) :
    s.start = { s.loadEngine s.startOff with
      mode := s.ctrlMode, phase := match s.ctrlMode with | .zlib => .zhdr | .raw => .body } := by
  rw [State.start, h]; rfl

/-- A fetched element is what the decoder reads in the state's context, and the cursor is past it (R90 to R92). -/
theorem State.fetch_elem {f : Format} {i : Instr} {s1 : State} :
    s.fetch f = .elem i s1 ↔
      ¬ (f = .rawByte ∧ s.cur.bitIdx ≠ 0#3) ∧
      ∃ c cur, s.ctx f = some c ∧ decode s.source c s.cur = .elem i cur ∧ s1 = { s with cur := cur } := by
  unfold State.fetch
  by_cases hr : f = .rawByte ∧ s.cur.bitIdx ≠ 0#3
  · rw [if_pos hr]
    exact ⟨fun h => (nomatch h), fun h => absurd hr h.1⟩
  · rw [if_neg hr]
    cases hc : s.ctx f with
    | none => exact ⟨fun h => (nomatch h), fun ⟨_, _, _, h, _⟩ => (nomatch h)⟩
    | some c =>
      cases hd : decode s.source c s.cur with
      | elem j cur =>
        simp only [hd]
        constructor
        · intro h; cases h; exact ⟨hr, c, cur, rfl, hd, rfl⟩
        · rintro ⟨-, c', cur', h1, h2, rfl⟩
          cases h1
          rw [hd] at h2
          cases h2
          rfl
      | short => cases s.inEnded <;> simp [hd]
      | _ => simp [hd]

/-- The errors of a fetch: the end of the input (R147), or a symbol of the empty table (R173). -/
theorem State.fetch_error {f : Format} {e : ErrCode} (h : s.fetch f = .error e) :
    (e = .ePrematureEnd ∧ s.inEnded = true ∧ ∃ c, s.ctx f = some c ∧ decode s.source c s.cur = .short) ∨
    (e = .eBadSymbol ∧ ∃ c, s.ctx f = some c ∧ decode s.source c s.cur = .emptyTable) := by
  unfold State.fetch at h
  split at h
  · cases h
  · cases hc : s.ctx f with
    | none => simp [hc] at h
    | some c =>
      simp only [hc] at h
      cases hd : decode s.source c s.cur with
      | short =>
        cases hi : s.inEnded with
        | false => simp [hd, hi] at h
        | true => simp [hd, hi] at h; exact .inl ⟨h.symm, rfl, c, rfl, hd⟩
      | emptyTable => simp [hd] at h; exact .inr ⟨h.symm, c, rfl, hd⟩
      | _ => simp [hd] at h

/-- Everything an engine element step can do (R91, R202, R266). -/
theorem State.engine_next :
    s.engine = .next t ↔
      (s.point = .idle ∧ t = s) ∨
      (s.point = .bodyEnd ∧ t = s.finishBody) ∨
      (s.point = .copy ∧ s.sinkReady = false ∧ t = s) ∨
      (s.point = .copy ∧ s.sinkReady = true ∧ s.copyStep = .next t) ∨
      ∃ f, s.point = .element f ∧
        ((s.fetch f = .wait ∧ t = s) ∨
         (∃ e, s.fetch f = .error e ∧ t = s.raise e) ∨
         ∃ i s1, s.fetch f = .elem i s1 ∧
          ((emits i = true ∧ s.sinkReady = false ∧ t = s) ∨
           (¬ (emits i = true ∧ s.sinkReady = false) ∧ exec i s1 = .next t))) := by
  unfold State.engine
  cases hp : s.point with
  | idle => simp [-Host.Outcome.next.injEq]
  | bodyEnd => simp [-Host.Outcome.next.injEq]
  | copy => cases hr : s.sinkReady <;> simp [-Host.Outcome.next.injEq]
  | element f =>
    cases hf : s.fetch f with
    | elem i s1 => cases he : emits i <;> cases hr : s.sinkReady <;> simp [hf, he, -Host.Outcome.next.injEq]
    | wait => simp [hf, -Host.Outcome.next.injEq]
    | error e => simp [hf, -Host.Outcome.next.injEq]
    | _ => simp [hf, -Host.Outcome.next.injEq]

/-- Repeated engine steps (R203): one of them has a result, or the last of them had none. -/
theorem State.repeatSteps_next {fuel : Nat} {r : StepResult} :
    s.repeatSteps (fuel + 1) = .next (r, t) ↔
      ∃ u, s.engineStep 400 = .next u ∧
        (stepResult s u ≠ .none ∧ r = stepResult s u ∧ t = u ∨
         stepResult s u = .none ∧ u.repeatSteps fuel = .next (r, t)) := by
  rw [State.repeatSteps]
  cases s.engineStep 400 with
  | next u =>
    by_cases h : stepResult s u = .none
    · simp [h]
    · simp only [h, if_false, Host.Outcome.next.injEq, Prod.mk.injEq, exists_eq_left']
      simp [h, eq_comm (a := r), eq_comm (a := t)]
  | fault f => simp
  | refused f => simp

end Sys2Proof.Machine
end

