-- ==== Sys2Proof/Laws/PerInstr.lean ====
section
/-! SUPPORT. Statements made once per constructor of `Instr`. -/

namespace Sys2Proof.Laws.Formats

/-- An element can be encoded only where its own format is due: no context admits an element of another format
(30_encoding.md R91). -/
def Statement (i : Instr) : Prop :=
  ∀ (c : Ctx) (bits : List Bool), encode c i = some bits → c.format = i.format

/-- Every element of the literal/length alphabet has the format `llSym`. -/
theorem llSymbol_format {i : Instr} (h : i.llSymbol ≠ none) : i.format = .llSym := by
  cases i <;> first | rfl | exact absurd rfl h

/-- Every element of the distance alphabet has the format `dSym`. -/
theorem dSymbol_format {i : Instr} (h : i.dSymbol ≠ none) : i.format = .dSym := by
  cases i <;> first | rfl | exact absurd rfl h

/-- A coded element is encoded only through its symbol. -/
theorem encodeCoded_some {t : Table} {o : Option (Nat × Nat × Nat)} {bits : List Bool}
    (h : encodeCoded t o = some bits) : o ≠ none := by
  rintro rfl; simp [encodeCoded] at h

/-- The statement for every element, by the context: a fixed-field context names its elements, a coded context asks for
their symbol. -/
theorem statement_of (i : Instr) : Statement i := by
  intro c bits h
  cases c with
  | clSym t p => cases i <;> first | rfl | simp [encode, encodeCoded, Instr.clSymbol] at h
  | llSym t => exact (llSymbol_format (encodeCoded_some h)).symm
  | dSym t => exact (dSymbol_format (encodeCoded_some h)).symm
  | _ => cases i <;> first | rfl | simp [encode] at h

theorem blkStored (bfinal : Bool) : Statement (.blkStored bfinal) := statement_of _
theorem blkFixed (bfinal : Bool) : Statement (.blkFixed bfinal) := statement_of _
theorem blkDynamic (bfinal : Bool) : Statement (.blkDynamic bfinal) := statement_of _
theorem blkReserved (bfinal : Bool) : Statement (.blkReserved bfinal) := statement_of _
theorem storedHdr (len nlen : BitVec 16) : Statement (.storedHdr len nlen) := statement_of _
theorem rawByte (b : Byte) : Statement (.rawByte b) := statement_of _
theorem dynHdr (hlit hdist : BitVec 5) (hclen : BitVec 4) : Statement (.dynHdr hlit hdist hclen) := statement_of _
theorem clLens (lens : List (BitVec 3)) : Statement (.clLens lens) := statement_of _
theorem clLen (len : BitVec 4) : Statement (.clLen len) := statement_of _
theorem clCopy (x : BitVec 2) : Statement (.clCopy x) := statement_of _
theorem clZero3 (x : BitVec 3) : Statement (.clZero3 x) := statement_of _
theorem clZero11 (x : BitVec 7) : Statement (.clZero11 x) := statement_of _
theorem lit (b : Byte) : Statement (.lit b) := statement_of _
theorem eob : Statement (.eob) := statement_of _
theorem len257 : Statement (.len257) := statement_of _
theorem len258 : Statement (.len258) := statement_of _
theorem len259 : Statement (.len259) := statement_of _
theorem len260 : Statement (.len260) := statement_of _
theorem len261 : Statement (.len261) := statement_of _
theorem len262 : Statement (.len262) := statement_of _
theorem len263 : Statement (.len263) := statement_of _
theorem len264 : Statement (.len264) := statement_of _
theorem len265 (x : BitVec 1) : Statement (.len265 x) := statement_of _
theorem len266 (x : BitVec 1) : Statement (.len266 x) := statement_of _
theorem len267 (x : BitVec 1) : Statement (.len267 x) := statement_of _
theorem len268 (x : BitVec 1) : Statement (.len268 x) := statement_of _
theorem len269 (x : BitVec 2) : Statement (.len269 x) := statement_of _
theorem len270 (x : BitVec 2) : Statement (.len270 x) := statement_of _
theorem len271 (x : BitVec 2) : Statement (.len271 x) := statement_of _
theorem len272 (x : BitVec 2) : Statement (.len272 x) := statement_of _
theorem len273 (x : BitVec 3) : Statement (.len273 x) := statement_of _
theorem len274 (x : BitVec 3) : Statement (.len274 x) := statement_of _
theorem len275 (x : BitVec 3) : Statement (.len275 x) := statement_of _
theorem len276 (x : BitVec 3) : Statement (.len276 x) := statement_of _
theorem len277 (x : BitVec 4) : Statement (.len277 x) := statement_of _
theorem len278 (x : BitVec 4) : Statement (.len278 x) := statement_of _
theorem len279 (x : BitVec 4) : Statement (.len279 x) := statement_of _
theorem len280 (x : BitVec 4) : Statement (.len280 x) := statement_of _
theorem len281 (x : BitVec 5) : Statement (.len281 x) := statement_of _
theorem len282 (x : BitVec 5) : Statement (.len282 x) := statement_of _
theorem len283 (x : BitVec 5) : Statement (.len283 x) := statement_of _
theorem len284 (x : BitVec 5) : Statement (.len284 x) := statement_of _
theorem len285 : Statement (.len285) := statement_of _
theorem llInvalid (b0 : BitVec 1) : Statement (.llInvalid b0) := statement_of _
theorem dist0 : Statement (.dist0) := statement_of _
theorem dist1 : Statement (.dist1) := statement_of _
theorem dist2 : Statement (.dist2) := statement_of _
theorem dist3 : Statement (.dist3) := statement_of _
theorem dist4 (x : BitVec 1) : Statement (.dist4 x) := statement_of _
theorem dist5 (x : BitVec 1) : Statement (.dist5 x) := statement_of _
theorem dist6 (x : BitVec 2) : Statement (.dist6 x) := statement_of _
theorem dist7 (x : BitVec 2) : Statement (.dist7 x) := statement_of _
theorem dist8 (x : BitVec 3) : Statement (.dist8 x) := statement_of _
theorem dist9 (x : BitVec 3) : Statement (.dist9 x) := statement_of _
theorem dist10 (x : BitVec 4) : Statement (.dist10 x) := statement_of _
theorem dist11 (x : BitVec 4) : Statement (.dist11 x) := statement_of _
theorem dist12 (x : BitVec 5) : Statement (.dist12 x) := statement_of _
theorem dist13 (x : BitVec 5) : Statement (.dist13 x) := statement_of _
theorem dist14 (x : BitVec 6) : Statement (.dist14 x) := statement_of _
theorem dist15 (x : BitVec 6) : Statement (.dist15 x) := statement_of _
theorem dist16 (x : BitVec 7) : Statement (.dist16 x) := statement_of _
theorem dist17 (x : BitVec 7) : Statement (.dist17 x) := statement_of _
theorem dist18 (x : BitVec 8) : Statement (.dist18 x) := statement_of _
theorem dist19 (x : BitVec 8) : Statement (.dist19 x) := statement_of _
theorem dist20 (x : BitVec 9) : Statement (.dist20 x) := statement_of _
theorem dist21 (x : BitVec 9) : Statement (.dist21 x) := statement_of _
theorem dist22 (x : BitVec 10) : Statement (.dist22 x) := statement_of _
theorem dist23 (x : BitVec 10) : Statement (.dist23 x) := statement_of _
theorem dist24 (x : BitVec 11) : Statement (.dist24 x) := statement_of _
theorem dist25 (x : BitVec 11) : Statement (.dist25 x) := statement_of _
theorem dist26 (x : BitVec 12) : Statement (.dist26 x) := statement_of _
theorem dist27 (x : BitVec 12) : Statement (.dist27 x) := statement_of _
theorem dist28 (x : BitVec 13) : Statement (.dist28 x) := statement_of _
theorem dist29 (x : BitVec 13) : Statement (.dist29 x) := statement_of _
theorem distInvalid (b0 : BitVec 1) : Statement (.distInvalid b0) := statement_of _
theorem zhdr (cmf flg : Byte) : Statement (.zhdr cmf flg) := statement_of _
theorem ztrailer (expected : BitVec 32) : Statement (.ztrailer expected) := statement_of _

end Sys2Proof.Laws.Formats
end

