-- ==== Sys2Proof/Tests/Slice0.lean ====
section
/-! SUPPORT. The model's own tests: ill-formed terms, decoding of bits written out from the spec, one step of each kind with
results from the spec's examples and vectors, and for every statement with hypotheses a witness that meets them. -/

namespace Sys2Proof.Tests

set_option Elab.async false

open Sys2Proof Sys2Proof.Machine

/-- Bits in stream order, written as 0 and 1. -/
def bs (bits : List Nat) : List Bool := bits.map (· == 1)

/-- The decoder reads exactly this element from these bits, and nothing is left. -/
def reads (c : Ctx) (bits : List Nat) (i : Instr) : Bool :=
  match decode listSource c (bs bits) with
  | .elem j [] => j == i
  | _ => false

/-- The outcome is a next state with this property. -/
def nextIs (o : Host.Outcome State Fault Refusal) (p : State → Bool) : Bool :=
  match o with
  | .next t => p t
  | _ => false

/-- The state after reset with an element of a context due. -/
def placed (c : Ctx) : State := State.reset.placeAt c

/-- The state after reset with an input delivered and ended. -/
def given (input : List Byte) : State :=
  { State.reset with input := Mem.writeBytes [] 0 input, inLen := input.length, inEnded := true }

/-- A run has failed with this code. -/
def failedWith (e : ErrCode) (t : State) : Bool := t.phase == .failed && t.err == e

/-! ## Ill-formed terms -/

theorem test_wf_too_few_lengths : ¬ (Instr.clLens [1, 0, 1]).WellFormed := by decide

theorem test_wf_too_many_lengths : ¬ (Instr.clLens (List.replicate 20 1)).WellFormed := by decide

theorem test_wf_bounds : (Instr.clLens [1, 0, 1, 0]).WellFormed ∧ (Instr.clLens (List.replicate 19 7)).WellFormed := by decide

/-! ## Decoding, from bits written out from 30_encoding.md -/

/-- R93: BFINAL, then BTYPE low bit first. `01`, `03`, `05`, `06` and `07` are bytes of R205 to R209. -/
theorem test_decode_block_headers : ([
    ([1, 0, 0], .blkStored true),
    ([1, 1, 0], .blkFixed true),
    ([1, 0, 1], .blkDynamic true),
    ([0, 1, 1], .blkReserved false),
    ([1, 1, 1], .blkReserved true)] : List (List Nat × Instr)).all (fun p => reads (.blkHdr) p.1 p.2) = true := by
  decide +kernel

/-- R94, vector L1-2: LEN 5, NLEN 0xFFFA, low byte first. -/
theorem test_decode_stored_header : ([
    ([1, 0, 1, 0, 0, 0, 0, 0, 0, 0, 0, 0, 0, 0, 0, 0, 0, 1, 0, 1, 1, 1, 1, 1, 1, 1, 1, 1, 1, 1, 1, 1], .storedHdr 5 0xFFFA)] : List (List Nat × Instr)).all (fun p => reads (.storedHdr) p.1 p.2) = true := by
  decide +kernel

/-- R143: bit 0 of the byte first. -/
theorem test_decode_raw_byte : ([
    ([1, 0, 0, 0, 0, 1, 1, 0], .rawByte 0x61),
    ([0, 0, 0, 0, 0, 0, 0, 1], .rawByte 0x80)] : List (List Nat × Instr)).all (fun p => reads (.rawByte) p.1 p.2) = true := by
  decide +kernel

/-- R95, program P3: HLIT 1, HDIST 0, HCLEN 14. -/
theorem test_decode_dynhdr : ([
    ([1, 0, 0, 0, 0, 0, 0, 0, 0, 0, 0, 1, 1, 1], .dynHdr 1 0 14)] : List (List Nat × Instr)).all (fun p => reads (.dynHdr) p.1 p.2) = true := by
  decide +kernel

/-- R96, vectors V-D1 and V-D3: four fields of 3 bits. -/
theorem test_decode_cllens : ([
    ([1, 0, 0, 0, 0, 0, 1, 0, 0, 0, 0, 0], .clLens [1, 0, 1, 0]),
    ([1, 0, 0, 1, 0, 0, 1, 0, 0, 0, 0, 0], .clLens [1, 1, 1, 0])] : List (List Nat × Instr)).all (fun p => reads (.clLens 4) p.1 p.2) = true := by
  decide +kernel

/-- The code-length table of V-H1 with its symbols renamed: 16 = "0", 3 = "10", 17 = "110", 18 = "111". -/
def clTable : Table := [⟨2, 2, 3⟩, ⟨1, 0, 16⟩, ⟨3, 6, 17⟩, ⟨3, 7, 18⟩]

/-- R97: the code, then 2, 3 or 7 extra bits, bit 0 first (examples of R178 to R180). -/
theorem test_decode_code_length_symbols : ([
    ([1, 0], .clLen 3),
    ([0, 1, 0], .clCopy 1),
    ([1, 1, 0, 1, 1, 1], .clZero3 7),
    ([1, 1, 1, 0, 1, 1, 0, 1, 0, 1], .clZero11 86)] : List (List Nat × Instr)).all (fun p => reads (.clSym clTable false) p.1 p.2) = true := by
  decide +kernel

/-- The fixed codes of R101 and 95_test_vectors.md section 2.2. -/
theorem test_decode_literals : ([
    ([0, 0, 1, 1, 0, 0, 0, 0], .lit 0),
    ([1, 0, 0, 1, 0, 0, 0, 1], .lit 0x61),
    ([1, 0, 1, 1, 1, 1, 1, 1], .lit 143),
    ([1, 1, 0, 0, 1, 0, 0, 0, 0], .lit 144),
    ([1, 1, 1, 1, 1, 1, 1, 1, 1], .lit 255),
    ([0, 0, 0, 0, 0, 0, 0], .eob),
    ([1, 1, 0, 0, 0, 1, 1, 0], .llInvalid 0),
    ([1, 1, 0, 0, 0, 1, 1, 1], .llInvalid 1)] : List (List Nat × Instr)).all (fun p => reads (.llSym fixedLL) p.1 p.2) = true := by
  decide +kernel

/-- The codes of 257 to 271 are the 7-bit values `s - 256` (R101), then the extra bits, bit 0 first (R99). -/
theorem test_decode_lengths_a : ([
    ([0, 0, 0, 0, 0, 0, 1], .len257),
    ([0, 0, 0, 0, 0, 1, 0], .len258),
    ([0, 0, 0, 0, 0, 1, 1], .len259),
    ([0, 0, 0, 0, 1, 0, 0], .len260),
    ([0, 0, 0, 0, 1, 0, 1], .len261),
    ([0, 0, 0, 0, 1, 1, 0], .len262),
    ([0, 0, 0, 0, 1, 1, 1], .len263),
    ([0, 0, 0, 1, 0, 0, 0], .len264),
    ([0, 0, 0, 1, 0, 0, 1, 1], .len265 1),
    ([0, 0, 0, 1, 0, 1, 0, 1], .len266 1),
    ([0, 0, 0, 1, 0, 1, 1, 1], .len267 1),
    ([0, 0, 0, 1, 1, 0, 0, 1], .len268 1),
    ([0, 0, 0, 1, 1, 0, 1, 1, 1], .len269 3),
    ([0, 0, 0, 1, 1, 1, 0, 1, 0], .len270 1),
    ([0, 0, 0, 1, 1, 1, 1, 1, 1], .len271 3)] : List (List Nat × Instr)).all (fun p => reads (.llSym fixedLL) p.1 p.2) = true := by
  decide +kernel

/-- The codes of 272 to 279 are the 7-bit values `s - 256`, of 280 to 285 the 8-bit values `0xC0 + (s - 280)` (R101). -/
theorem test_decode_lengths_b : ([
    ([0, 0, 1, 0, 0, 0, 0, 1, 0], .len272 1),
    ([0, 0, 1, 0, 0, 0, 1, 1, 1, 0], .len273 3),
    ([0, 0, 1, 0, 0, 1, 0, 1, 0, 1], .len274 5),
    ([0, 0, 1, 0, 0, 1, 1, 1, 1, 0], .len275 3),
    ([0, 0, 1, 0, 1, 0, 0, 1, 0, 1], .len276 5),
    ([0, 0, 1, 0, 1, 0, 1, 1, 1, 0, 1], .len277 11),
    ([0, 0, 1, 0, 1, 1, 0, 1, 0, 1, 0], .len278 5),
    ([0, 0, 1, 0, 1, 1, 1, 1, 1, 0, 1], .len279 11),
    ([1, 1, 0, 0, 0, 0, 0, 0, 1, 0, 1, 0], .len280 5),
    ([1, 1, 0, 0, 0, 0, 0, 1, 1, 1, 0, 1, 0], .len281 11),
    ([1, 1, 0, 0, 0, 0, 1, 0, 1, 0, 1, 0, 1], .len282 21),
    ([1, 1, 0, 0, 0, 0, 1, 1, 1, 1, 0, 1, 0], .len283 11),
    ([1, 1, 0, 0, 0, 1, 0, 0, 1, 0, 1, 0, 1], .len284 21),
    ([1, 1, 0, 0, 0, 1, 0, 1], .len285)] : List (List Nat × Instr)).all (fun p => reads (.llSym fixedLL) p.1 p.2) = true := by
  decide +kernel

/-- The fixed code of distance symbol `d` is the 5-bit value `d` (R101), then the extra bits, bit 0 first (R100). -/
theorem test_decode_distances_a : ([
    ([0, 0, 0, 0, 0], .dist0),
    ([0, 0, 0, 0, 1], .dist1),
    ([0, 0, 0, 1, 0], .dist2),
    ([0, 0, 0, 1, 1], .dist3),
    ([0, 0, 1, 0, 0, 1], .dist4 1),
    ([0, 0, 1, 0, 1, 1], .dist5 1),
    ([0, 0, 1, 1, 0, 1, 1], .dist6 3),
    ([0, 0, 1, 1, 1, 1, 0], .dist7 1),
    ([0, 1, 0, 0, 0, 1, 1, 0], .dist8 3),
    ([0, 1, 0, 0, 1, 1, 0, 1], .dist9 5),
    ([0, 1, 0, 1, 0, 1, 1, 0, 1], .dist10 11),
    ([0, 1, 0, 1, 1, 1, 0, 1, 0], .dist11 5),
    ([0, 1, 1, 0, 0, 1, 1, 0, 1, 0], .dist12 11),
    ([0, 1, 1, 0, 1, 1, 0, 1, 0, 1], .dist13 21),
    ([0, 1, 1, 1, 0, 1, 1, 0, 1, 0, 0], .dist14 11),
    ([0, 1, 1, 1, 1, 1, 0, 1, 0, 1, 0], .dist15 21)] : List (List Nat × Instr)).all (fun p => reads (.dSym fixedD) p.1 p.2) = true := by
  decide +kernel

/-- As `test_decode_distances_a`, for 16 to 29, and the invalid symbols 30 and 31. -/
theorem test_decode_distances_b : ([
    ([1, 0, 0, 0, 0, 1, 1, 0, 1, 0, 0, 1], .dist16 75),
    ([1, 0, 0, 0, 1, 1, 0, 1, 0, 1, 0, 1], .dist17 85),
    ([1, 0, 0, 1, 0, 1, 1, 0, 1, 0, 0, 1, 1], .dist18 203),
    ([1, 0, 0, 1, 1, 1, 0, 1, 0, 1, 0, 1, 0], .dist19 85),
    ([1, 0, 1, 0, 0, 1, 1, 0, 1, 0, 0, 1, 1, 0], .dist20 203),
    ([1, 0, 1, 0, 1, 1, 0, 1, 0, 1, 0, 1, 0, 1], .dist21 341),
    ([1, 0, 1, 1, 0, 1, 1, 0, 1, 0, 0, 1, 1, 0, 1], .dist22 715),
    ([1, 0, 1, 1, 1, 1, 0, 1, 0, 1, 0, 1, 0, 1, 0], .dist23 341),
    ([1, 1, 0, 0, 0, 1, 1, 0, 1, 0, 0, 1, 1, 0, 1, 0], .dist24 715),
    ([1, 1, 0, 0, 1, 1, 0, 1, 0, 1, 0, 1, 0, 1, 0, 1], .dist25 1365),
    ([1, 1, 0, 1, 0, 1, 1, 0, 1, 0, 0, 1, 1, 0, 1, 0, 1], .dist26 2763),
    ([1, 1, 0, 1, 1, 1, 0, 1, 0, 1, 0, 1, 0, 1, 0, 1, 0], .dist27 1365),
    ([1, 1, 1, 0, 0, 1, 1, 0, 1, 0, 0, 1, 1, 0, 1, 0, 1, 0], .dist28 2763),
    ([1, 1, 1, 0, 1, 1, 0, 1, 0, 1, 0, 1, 0, 1, 0, 1, 0, 1], .dist29 5461),
    ([1, 1, 1, 1, 0], .distInvalid 0),
    ([1, 1, 1, 1, 1], .distInvalid 1)] : List (List Nat × Instr)).all (fun p => reads (.dSym fixedD) p.1 p.2) = true := by
  decide +kernel

/-- R102, vectors V-Z1 and V-Z2: CMF, then FLG. -/
theorem test_decode_zhdr : ([
    ([0, 0, 0, 1, 1, 1, 1, 0, 0, 0, 1, 1, 1, 0, 0, 1], .zhdr 0x78 0x9C),
    ([0, 0, 0, 1, 1, 1, 1, 0, 0, 1, 0, 1, 1, 0, 1, 1], .zhdr 0x78 0xDA)] : List (List Nat × Instr)).all (fun p => reads (.zhdr) p.1 p.2) = true := by
  decide +kernel

/-- R103, vector V-Z2: the first byte is the most significant. -/
theorem test_decode_ztrailer : ([
    ([1, 0, 0, 0, 1, 0, 0, 0, 1, 0, 1, 1, 1, 1, 0, 0, 1, 1, 0, 0, 0, 0, 0, 0, 1, 1, 0, 0, 1, 1, 1, 0], .ztrailer 0x113D0373)] : List (List Nat × Instr)).all (fun p => reads (.ztrailer) p.1 p.2) = true := by
  decide +kernel

/-- A repeat with no previous length ends at its code (R178, V-D1). -/
theorem test_decode_repeat_without_previous : reads (.clSym clTable true) [0] (.clCopy 0) = true := by decide

/-- The empty table is an error before any bit (R173); two of seven bits of a code are too few (R172, V-S9). -/
theorem test_decode_errors :
    (match decode listSource (.dSym []) [] with | .emptyTable => true | _ => false) = true ∧
    (match decode listSource (.llSym fixedLL) [false, false] with | .short => true | _ => false) = true := by
  decide +kernel

/-- The encoder writes the bits of V-F3: LENSYM 266 with x = 1 is "0001010 1"; and of P3: CL 18 with x = 86. -/
theorem test_encode :
    encode (.llSym fixedLL) (.len266 1) = some (bs [0, 0, 0, 1, 0, 1, 0, 1]) ∧
    encode (.dSym fixedD) (.dist4 1) = some (bs [0, 0, 1, 0, 0, 1]) ∧
    encode .blkHdr (.blkDynamic true) = some (bs [1, 0, 1]) ∧
    encode (.clSym [⟨2, 2, 1⟩, ⟨2, 3, 2⟩, ⟨1, 0, 18⟩] false) (.clZero11 86) = some (bs [0, 0, 1, 1, 0, 1, 0, 1]) := by
  decide +kernel

/-- Words of spec/opcode_table.json: BLK_FIXED is 2 of a 3-bit row, LEN266 is 266, ZHDR with CM 8 is 8. -/
theorem test_table_words :
    decodeTableWord 8 2 = some (.blkFixed false) ∧ decodeTableWord 16 266 = some (.len266 0) ∧
    decodeTableWord 16 8 = some (.zhdr 8 0) ∧ decodeTableWord 8 29 = some (.dist29 0) ∧
    decodeTableWord 32 0 = some (.storedHdr 0 0) := by
  decide +kernel

/-- The placed word is the one the next step runs: BLK_RESERVED fails with code 7. -/
theorem test_placed_word : nextIs (step (State.reset.withFetchWord 8 6)) (failedWith .eBtypeReserved) = true := by
  decide +kernel

/-! ## The bitstream reader (vectors V-B1 to V-B16) -/

/-- `IN` of V-B1: B5 3C 01. -/
def inB : Nat → Option Byte := fun p => [0xB5, 0x3C, 0x01][p]?

/-- `IN` of V-B7: 12 34 56 78. -/
def inB7 : Nat → Option Byte := fun p => [0x12, 0x34, 0x56, 0x78][p]?

theorem test_eat_bits :
    (eatBits (cursorSource inB) 3 ⟨0, 0, 0⟩).map (fun p => (p.1, p.2.inPos, p.2.bitIdx)) = some (5, 1, 3) ∧
    (eatBits (cursorSource inB) 5 ⟨1, 3, 0xB5⟩).map (fun p => (p.1, p.2.inPos, p.2.bitIdx)) = some (22, 1, 0) ∧
    (eatBits (cursorSource inB) 12 ⟨2, 4, 0x3C⟩).map (fun p => (p.1, p.2.inPos, p.2.bitIdx)) = some (19, 3, 0) ∧
    eatBits (cursorSource inB) 1 ⟨3, 0, 1⟩ = none := by decide

theorem test_eat_bits_swap :
    (eatBitsSwap (cursorSource inB7) 4 32 ⟨0, 0, 0⟩).map (fun p => (p.1, p.2.inPos)) = some (0x12345678, 4) ∧
    (eatBits (cursorSource inB7) 32 ⟨0, 0, 0⟩).map (fun p => (p.1, p.2.inPos)) = some (0x78563412, 4) := by decide +kernel

theorem test_eat_raw_and_empty :
    (eatRaw (cursorSource inB) 2 ⟨0, 0, 0⟩).map (fun p => (p.1, p.2.inPos)) = some ([0xB5, 0x3C], 2) ∧
    Cursor.empty ⟨1, 3, 0xAA⟩ 1 = false ∧ Cursor.empty ⟨3, 0, 1⟩ 3 = true := by decide

/-! ## BUILD and DECODE (vectors V-H1 to V-H12) -/

theorem test_build :
    build [2, 1, 3, 3] false = .ok [⟨2, 2, 0⟩, ⟨1, 0, 1⟩, ⟨3, 6, 2⟩, ⟨3, 7, 3⟩] ∧
    build [1, 1, 1] false = .error .eHuffOverfull ∧ build [1, 1, 2] false = .error .eHuffOverfull ∧
    build [2, 2, 2] false = .error .eHuffIncomplete ∧ build [1, 2] false = .error .eHuffIncomplete := by decide

theorem test_build_corners :
    build [3] false = .ok [⟨1, 0, 0⟩, ⟨1, 1, 0⟩] ∧ build [0, 5, 0] true = .ok [⟨1, 0, 1⟩, ⟨1, 1, 1⟩] ∧
    build [0, 0, 0] true = .ok [] ∧ build [0, 0, 0] false = .error .eHuffIncomplete ∧
    build [1, 0, 1] false = .ok [⟨1, 0, 0⟩, ⟨1, 1, 2⟩] := by decide

/-- V-D2b: on the repaired table either bit is the symbol (R166). -/
theorem test_decode_single_code :
    decodeSym listSource (singleCode 0) [true, false] = some (0, [false]) ∧
    decodeSym listSource (singleCode 0) [false, false] = some (0, [false]) := by decide

/-- Bits "110 0 10 111" on the table of V-H1 are the symbols 2, 1, 0, 3 (R171); the first takes 3 bits. -/
theorem test_decode_symbol :
    decodeSym listSource [⟨2, 2, 0⟩, ⟨1, 0, 1⟩, ⟨3, 6, 2⟩, ⟨3, 7, 3⟩] (bs [1, 1, 0, 0, 1, 0, 1, 1, 1]) =
      some (2, bs [0, 1, 0, 1, 1, 1]) := by decide

/-! ## One step of each kind -/

/-- Where a literal/length symbol is due in a fixed block. -/
def inFixed : State := placed (.llSym fixedLL)

/-- V-F1 after its first literal: 61 emitted. -/
def afterA : State :=
  { inFixed with window := [(0, 0x61)], wpos := 1, totalOut := 1, adlerA := 98, adlerB := 98, out := [0x61] }

/-- A distance symbol due after a length 3, with so many bytes emitted. -/
def afterLength (totalOut : Nat) : State := { placed (.dSym fixedD) with totalOut := totalOut }

/-- P1, step 1: a final stored block; the cursor (1,3) is aligned (R206). -/
theorem test_blk_stored :
    nextIs (exec (.blkStored true) { placed .blkHdr with cur := ⟨1, 3, 1⟩ })
      (fun t => t.finalSeen && t.cur.bitIdx == 0 && t.cur.inPos == 1 && t.mid == .storedHdr) = true := by decide

/-- P2, step 1: `bstate` FIXED, `final_seen` 1 (R207). -/
theorem test_blk_fixed :
    nextIs (exec (.blkFixed true) { placed .blkHdr with cur := ⟨1, 3, 0x4B⟩ })
      (fun t => t.finalSeen && t.bstate == .fixed && t.point == .element .llSym && t.cur.bitIdx == 3) = true := by
  decide +kernel

/-- P3, step 1: the description of the tables is due (R208). -/
theorem test_blk_dynamic :
    nextIs (exec (.blkDynamic true) (placed .blkHdr)) (fun t => t.finalSeen && t.point == .element .dynHdr) = true := by decide

/-- V-S5, V-S6: error 7 whatever BFINAL is (R209). -/
theorem test_blk_reserved :
    nextIs (exec (.blkReserved true) (placed .blkHdr)) (failedWith .eBtypeReserved) = true ∧
    nextIs (exec (.blkReserved false) (placed .blkHdr)) (failedWith .eBtypeReserved) = true := by decide

/-- V-S1 and V-S2: LEN 5 opens the block, LEN 0 stays between blocks (R206). -/
theorem test_stored_hdr :
    nextIs (exec (.storedHdr 5 0xFFFA) (placed .storedHdr)) (fun t => t.rawRemaining == 5 && t.bstate == .stored) = true ∧
    nextIs (exec (.storedHdr 0 0xFFFF) (placed .storedHdr)) (fun t => t.rawRemaining == 0 && t.bstate == .between) = true := by
  decide

/-- V-S3: NLEN 0xFFFB is not the complement of 5. -/
theorem test_stored_hdr_check :
    nextIs (exec (.storedHdr 5 0xFFFB) (placed .storedHdr)) (failedWith .eStoredLen) = true := by decide

/-- P1, step 2: the byte 01; the sums are (2, 2) (section 2.7). -/
theorem test_raw_byte :
    nextIs (exec (.rawByte 1) { placed .rawByte with rawRemaining := 5 })
      (fun t => t.out == [1] && t.rawRemaining == 4 && t.bstate == .stored && t.adlerA == 2 && t.adlerB == 2 && t.wpos == 1)
      = true := by decide

/-- P1, step 6: the last byte closes the block; the sums are (16, 40). -/
theorem test_raw_byte_last :
    nextIs (exec (.rawByte 5) { placed .rawByte with rawRemaining := 1, adlerA := 11, adlerB := 24 })
      (fun t => t.bstate == .between && t.adlerA == 16 && t.adlerB == 40) = true := by decide

/-- P3: HCLEN 14 announces 18 code lengths (R174). -/
theorem test_dynhdr :
    nextIs (exec (.dynHdr 1 0 14) (placed .dynHdr))
      (fun t => match t.ctx .clLens with | some (.clLens n) => n == 18 | _ => false) = true := by decide

/-- P3: `cl` = 18:"0", 1:"10", 2:"11" (R175, R176). -/
theorem test_cllens :
    nextIs (exec (.clLens [0, 0, 1, 0, 0, 0, 0, 0, 0, 0, 0, 0, 0, 0, 0, 2, 0, 2]) { placed (.clLens 18) with mid := .clLens 1 0 14 })
      (fun t => t.mid == .clSyms 1 0 [⟨2, 2, 1⟩, ⟨2, 3, 2⟩, ⟨1, 0, 18⟩] []) = true := by decide

/-- V-D3 and V-D4: three codes of one bit, three codes of two bits. -/
theorem test_cllens_errors :
    nextIs (exec (.clLens [1, 1, 1, 0]) (placed (.clLens 4))) (failedWith .eHuffOverfull) = true ∧
    nextIs (exec (.clLens [2, 2, 2, 0]) (placed (.clLens 4))) (failedWith .eHuffIncomplete) = true := by decide

/-- Inside the code-length list, after a length 2 (R178). -/
def inList : State := { placed (.clSym clTable false) with mid := .clSyms 0 0 clTable [2] }

theorem test_cl_len : nextIs (exec (.clLen 3) inList) (fun t => t.mid == .clSyms 0 0 clTable [2, 3]) = true := by decide

/-- R178: `lens` ends in 2, x = 1: four more 2s. -/
theorem test_cl_copy :
    nextIs (exec (.clCopy 1) inList) (fun t => t.mid == .clSyms 0 0 clTable [2, 2, 2, 2, 2]) = true := by decide

/-- V-D1: no previous length. -/
theorem test_cl_copy_first :
    nextIs (exec (.clCopy 0) (placed (.clSym clTable true))) (failedWith .eDynRepeat) = true := by decide

/-- R179: x = 7 is ten zeros. -/
theorem test_cl_zero3 :
    nextIs (exec (.clZero3 7) inList) (fun t => t.mid == .clSyms 0 0 clTable (2 :: List.replicate 10 0)) = true := by decide

/-- R180: x = 86 is 97 zeros. -/
theorem test_cl_zero11 :
    nextIs (exec (.clZero11 86) inList) (fun t => t.mid == .clSyms 0 0 clTable (2 :: List.replicate 97 0)) = true := by decide

/-- V-D6: 138 and 138 zeros for 258 lengths. -/
theorem test_cl_counts :
    nextIs (exec (.clZero11 127) { inList with mid := .clSyms 0 0 clTable (List.replicate 138 0) })
      (failedWith .eDynCounts) = true := by decide +kernel

/-- P3: its last code-length symbol makes LL = 97:"0", 256:"10", 257:"11" and the repaired distance table. -/
theorem test_cl_last :
    nextIs (exec (.clLen 1)
        { inList with mid := .clSyms 1 0 clTable (List.replicate 97 0 ++ 1 :: List.replicate 158 0 ++ [2, 2]) })
      (fun t => t.bstate == .dynamic && t.llTable == some [⟨1, 0, 97⟩, ⟨2, 2, 256⟩, ⟨2, 3, 257⟩] &&
        t.distTable == some [⟨1, 0, 0⟩, ⟨1, 1, 0⟩]) = true := by decide +kernel

/-- P2, step 2: 61 is emitted; the sums are (98, 98). -/
theorem test_lit :
    nextIs (exec (.lit 0x61) inFixed)
      (fun t => t.out == [0x61] && t.window == [(0, 0x61)] && t.wpos == 1 && t.totalOut == 1 && t.adler == 0x00620062) = true := by
  decide +kernel

/-- R251: `wpos` wraps at 65536. -/
theorem test_lit_wraps :
    nextIs (exec (.lit 7) { inFixed with wpos := 0xFFFF, totalOut := 65535 })
      (fun t => t.wpos == 0 && t.totalOut == 65536 && t.window == [(65535, 7)]) = true := by decide +kernel

/-- P2, step 12: the tables are dropped (R213). -/
theorem test_eob :
    nextIs (exec .eob { inFixed with finalSeen := true })
      (fun t => t.bstate == .between && t.llTable == none && t.distTable == none && t.point == .bodyEnd) = true := by
  decide +kernel

/-- R215 to R218 with all extra bits 1: base + 2^n - 1, the bases those of the rules. -/
theorem test_lengths_a : ([
    (.len257, 3),
    (.len258, 4),
    (.len259, 5),
    (.len260, 6),
    (.len261, 7),
    (.len262, 8),
    (.len263, 9),
    (.len264, 10),
    (.len265 1, 12),
    (.len266 1, 14),
    (.len267 1, 16),
    (.len268 1, 18),
    (.len269 3, 22),
    (.len270 3, 26),
    (.len271 3, 30)] : List (Instr × Nat)).all (fun p => nextIs (exec p.1 inFixed) fun t => t.mid == .dist (BitVec.ofNat 9 p.2)) = true := by
  decide +kernel

/-- R218 to R221 with all extra bits 1; 284 with x = 31 is 258 (V-F6), 285 is 258. -/
theorem test_lengths_b : ([
    (.len272 3, 34),
    (.len273 7, 42),
    (.len274 7, 50),
    (.len275 7, 58),
    (.len276 7, 66),
    (.len277 15, 82),
    (.len278 15, 98),
    (.len279 15, 114),
    (.len280 15, 130),
    (.len281 31, 162),
    (.len282 31, 194),
    (.len283 31, 226),
    (.len284 31, 258),
    (.len285, 258)] : List (Instr × Nat)).all (fun p => nextIs (exec p.1 inFixed) fun t => t.mid == .dist (BitVec.ofNat 9 p.2)) = true := by
  decide +kernel

/-- The examples of R217 to R220 and V-F7. -/
theorem test_length_examples : ([
    (.len272 3, 34), (.len273 0, 35), (.len280 15, 130), (.len281 5, 136), (.len284 30, 257)] : List (Instr × Nat)).all
      (fun p => nextIs (exec p.1 inFixed) fun t => t.mid == .dist (BitVec.ofNat 9 p.2)) = true := by
  decide +kernel

/-- V-E13a, V-E13b: symbols 286 and 30. -/
theorem test_invalid_symbols :
    nextIs (exec (.llInvalid 0) afterA) (failedWith .eBadSymbol) = true ∧
    nextIs (exec (.distInvalid 0) (afterLength 1)) (failedWith .eBadSymbol) = true := by decide +kernel

/-- R224 to R230 with all extra bits 1: base + 2^n - 1, the bases those of the rules. -/
theorem test_distances_a : ([
    (.dist0, 1),
    (.dist1, 2),
    (.dist2, 3),
    (.dist3, 4),
    (.dist4 1, 6),
    (.dist5 1, 8),
    (.dist6 3, 12),
    (.dist7 3, 16),
    (.dist8 7, 24),
    (.dist9 7, 32),
    (.dist10 15, 48),
    (.dist11 15, 64),
    (.dist12 31, 96),
    (.dist13 31, 128),
    (.dist14 63, 192),
    (.dist15 63, 256)] : List (Instr × Nat)).all (fun p => nextIs (exec p.1 (afterLength 32768)) fun t => t.copyLen == 3 && t.copyDist == BitVec.ofNat 16 p.2 && t.point == .copy) = true := by
  decide +kernel

/-- R231 to R237 with all extra bits 1; the last is 32768. -/
theorem test_distances_b : ([
    (.dist16 127, 384),
    (.dist17 127, 512),
    (.dist18 255, 768),
    (.dist19 255, 1024),
    (.dist20 511, 1536),
    (.dist21 511, 2048),
    (.dist22 1023, 3072),
    (.dist23 1023, 4096),
    (.dist24 2047, 6144),
    (.dist25 2047, 8192),
    (.dist26 4095, 12288),
    (.dist27 4095, 16384),
    (.dist28 8191, 24576),
    (.dist29 8191, 32768)] : List (Instr × Nat)).all (fun p => nextIs (exec p.1 (afterLength 32768)) fun t => t.copyLen == 3 && t.copyDist == BitVec.ofNat 16 p.2 && t.point == .copy) = true := by
  decide +kernel

/-- V-W6 and V-W7: distance 32768 with 32767 bytes emitted, and with 32768. -/
theorem test_backref_limit :
    nextIs (exec (.dist29 8191) (afterLength 32767)) (failedWith .eBackref) = true ∧
    nextIs (exec (.dist29 8191) (afterLength 32768)) (fun t => t.copyDist == 32768) = true := by decide +kernel

/-- V-Z1: 78 9C opens the body; V-Z12: 88 1C does too. -/
theorem test_zhdr :
    nextIs (exec (.zhdr 0x78 0x9C) (placed .zhdr)) (fun t => t.phase == .body && t.readCsr 7 == some 0x9C78) = true ∧
    nextIs (exec (.zhdr 0x88 0x1C) (placed .zhdr)) (fun t => t.phase == .body) = true := by decide +kernel

/-- V-Z6 to V-Z8 and section 2.8: which error wins. -/
theorem test_zhdr_errors :
    nextIs (exec (.zhdr 0x79 0x9C) (placed .zhdr)) (failedWith .eZlibMethod) = true ∧
    nextIs (exec (.zhdr 0x78 0x9D) (placed .zhdr)) (failedWith .eZlibFcheck) = true ∧
    nextIs (exec (.zhdr 0x78 0xBB) (placed .zhdr)) (failedWith .eZlibFdict) = true ∧
    nextIs (exec (.zhdr 0x79 0x9D) (placed .zhdr)) (failedWith .eZlibMethod) = true ∧
    nextIs (exec (.zhdr 0x78 0xBC) (placed .zhdr)) (failedWith .eZlibFcheck) = true := by decide +kernel

/-- V-Z10: the Adler-32 of nothing is 1. -/
theorem test_ztrailer :
    nextIs (exec (.ztrailer 1) { placed .ztrailer with cur := ⟨8, 0, 0⟩ }) (fun t => t.phase == .done && t.endPos == 8) = true := by
  decide +kernel

/-- V-Z3: one bit of the trailer is wrong. -/
theorem test_ztrailer_check :
    nextIs (exec (.ztrailer 0x113D0372) { placed .ztrailer with adlerA := 0x0373, adlerB := 0x113D })
      (failedWith .eZlibAdler) = true := by decide +kernel

/-- P2, step 7: distance 3 after 61 62 63 61 copies 62; the sums go from (392, 981) to (490, 1471). -/
theorem test_copy_step :
    nextIs (step { inFixed with
        copyLen := 5, copyDist := 3, wpos := 4, totalOut := 4, adlerA := 392, adlerB := 981,
        window := [(0, 0x61), (1, 0x62), (2, 0x63), (3, 0x61)], out := [0x61, 0x62, 0x63, 0x61] })
      (fun t => t.out == [0x61, 0x62, 0x63, 0x61, 0x62] && t.copyLen == 4 && t.adlerA == 490 && t.adlerB == 1471) = true := by
  decide +kernel

/-- P2, step 13: END at cursor (7,6) aligns to (7,0); `END_POS` 7 (R204, R268). -/
theorem test_end_of_body :
    nextIs (step { placed .blkHdr with finalSeen := true, cur := ⟨7, 6, 0⟩ })
      (fun t => t.phase == .done && t.endPos == 7 && t.cur.bitIdx == 0) = true := by decide

/-- R203: V-S8 is NONE (the header), NONE (EOB), then END with `END_POS` 2; V-S7 is error 8. -/
theorem test_next_value :
    (match ({ placed .blkHdr with input := [(0, 3), (1, 0)], inLen := 2, inEnded := true } : State).nextValue with
      | .next (r, t) => r == .bodyEnd && t.endPos == 2 && t.out == [] | _ => false) = true ∧
    (match ({ placed .blkHdr with inEnded := true } : State).nextValue with
      | .next (r, _) => r == .raised .ePrematureEnd | _ => false) = true := by decide +kernel

/-- R203 on P2: NONE (the header), then BYTE(61). -/
theorem test_next_value_byte :
    (match ({ placed .blkHdr with input := [(0, 0x4B), (1, 0x4C)], inLen := 2, inEnded := true } : State).nextValue with
      | .next (r, t) => r == .byte 0x61 && t.out == [0x61] && t.cur.inPos == 2 && t.cur.bitIdx == 3 | _ => false) = true := by
  decide +kernel

/-- V-S7 and R356: with no byte the block fails once the end is signalled, and waits before that. -/
theorem test_input_end :
    nextIs (step { placed .blkHdr with inEnded := true }) (failedWith .ePrematureEnd) = true ∧
    nextIs (step (placed .blkHdr)) (fun t => t == placed .blkHdr) = true := by decide

/-! ## The host's side -/

/-- V-C1: the CSRs after reset. -/
theorem test_reset_csrs :
    (List.range 8).map State.reset.readCsr = [some 0, some 0, some 0x300, some 0, some 0, some 1, some 0, some 0] := by decide

/-- Writing CTRL with START in zlib mode at START_OFF 2 (P6, R265). -/
theorem test_start :
    nextIs (step { State.reset with hostOps := [.writeCsr 0 3], startOff := 2 })
      (fun t => t.phase == .zhdr && t.cur.inPos == 2 && t.mode == .zlib && t.hostOps == []) = true := by decide

/-- V-C5: START while busy is ignored. -/
theorem test_start_while_busy :
    nextIs (step { placed .rawByte with hostOps := [.writeCsr 0 1], cur := ⟨5, 0, 0⟩ })
      (fun t => t.phase == .body && t.cur.inPos == 5 && t.bstate == .stored) = true := by decide

/-- V-C2: the status of a run that is done, and V-C3: of one that has failed with error 1 (`DONE`, `ERR` 1). -/
theorem test_status :
    ({ State.reset with phase := .done, finalSeen := true, shown := ⟨10, 0, true⟩ } : State).status = 0x706 ∧
    ({ State.reset with phase := .failed, err := .eStoredLen } : State).status = 0x312 := by decide

/-- Delivered bytes stand at the next indices; nothing may follow the end (R60). -/
theorem test_deliver :
    nextIs (step { State.reset with hostOps := [.deliver [7, 8]], input := [(0, 6)], inLen := 1 })
      (fun t => t.input == [(0, 6), (1, 7), (2, 8)] && t.inLen == 3) = true ∧
    (match step { State.reset with hostOps := [.deliver [7]], inEnded := true } with
      | .refused .hostChangesRun => true | _ => false) = true := by decide

/-! ## Witnesses: states and operands that meet the hypotheses of the statements, one clause at a time

A theorem `witness_<Name>` is about the statement `Obligations.<Name>`; one with another name says in its docstring which
statements it is about. -/

/-- V-S8 after START: an empty fixed block is due. -/
def runA : State := { placed .blkHdr with input := [(0, 3), (1, 0)], inLen := 2, inEnded := true }

/-- P2 in the middle of its copy: two bytes are still to be copied at distance 1. -/
def runCopy : State := { afterA with copyLen := 2, copyDist := 1, inEnded := true }

theorem runA_inv : runA.Inv where
  input := by decide
  window := by decide
  sums := by decide
  err := by decide
  endPos := by decide
  framing := by decide
  place := by decide
  shown := by decide
  cursor := by decide
  aligned := by decide
  raw := by decide
  copy := by decide
  tables := fun _ h => absurd h (by decide)
  mid := fun _ => trivial
  history := by decide
  adler := by decide

theorem runCopy_inv : runCopy.Inv where
  input := by decide
  window := by decide
  sums := by decide
  err := by decide
  endPos := by decide
  framing := by decide
  place := by decide
  shown := by decide
  cursor := by decide
  aligned := by decide
  raw := by decide
  copy := by decide
  tables := fun _ _ => ⟨fixedLL, fixedD, rfl, rfl, fixedLL_built, fixedD_built⟩
  mid := fun _ => trivial
  history := by decide
  adler := by decide

theorem witness_HardResetLoadsTheResetValues : ({ runCopy with hostOps := [.reset] } : State).hostOps = .reset :: [] := rfl

theorem witness_StartLoadsEveryEngineRegister :
    State.reset.phase.busy = false ∧ State.reset.ctrlMode = .raw ∧
    ({ State.reset with ctrlMode := .zlib } : State).phase.busy = false ∧
    (State.reset.raise .eNoEob).phase.busy = false := by decide

/-- A state whose oldest host operation writes a CSR. -/
def writing (s : State) (n v : Nat) : State := { s with hostOps := [.writeCsr n v] }

theorem witness_CsrWritesActAsTheirRegisters (s : State) (n v : Nat) :
    (writing s n v).hostOps = .writeCsr n v :: [] ∧ (2 : Nat).testBit 0 = false ∧ (3 : Nat).testBit 0 = true ∧
    (writing runA 0 1).phase.busy = true ∧ 2 ≤ 2 ∧ 7 ≤ 7 ∧ 8 ≤ 8 := by
  refine ⟨rfl, ?_⟩; decide

theorem witness_CsrReadsGiveTheirRegisters : (8 : Nat) ≤ 8 := by decide

theorem witness_FailedIsLeftOnlyByStartOrReset :
    (State.reset.hostOps = [] ∧ State.reset.phase.busy = false) ∧
    ∃ t, (writing (State.reset.raise .eNoEob) 0 1).phase = .failed ∧
      step (writing (State.reset.raise .eNoEob) 0 1) = .next t ∧ t.phase ≠ .failed := by
  refine ⟨by decide, _, rfl, rfl, ?_⟩; decide

/-- For `BlockHeadersOpenTheirDescriptions`, `FixedBlockInstallsTheFixedTables`, `ReservedBlockTypeFails`. -/
theorem witness_block_headers : (placed .blkHdr).point = .element .blkHdr := by decide

theorem witness_StoredHeaderChecksTheComplement :
    (placed .storedHdr).point = .element .storedHdr ∧ (0xFFFA#16 = ~~~5#16) ∧ (0xFFFF#16 = ~~~0#16) ∧ (0xFFFB#16 ≠ ~~~5#16) := by
  decide

theorem witness_RawByteIsEmittedAndCountedOff :
    (placed .rawByte).point = .element .rawByte ∧ (placed .rawByte).rawRemaining = 1#16 := by decide

/-- `CLLENS` with HCLEN + 4 = 4 and = 19 fields; lists BUILD accepts and rejects. -/
theorem witness_DynamicHeaderAndCodeLengthTable :
    (placed .dynHdr).point = .element .dynHdr ∧ (placed (.clLens 4)).phase = .body ∧
    (placed (.clLens 4)).mid = .clLens 0 0 0 ∧ ([1, 0, 1, 0] : List (BitVec 3)).length = (0#4).toNat + 4 ∧
    (placed (.clLens 19)).mid = .clLens 0 0 15 ∧ (List.replicate 19 (1 : BitVec 3)).length = (15#4).toNat + 4 ∧
    (∃ t, build (clLengths [1, 0, 1, 0]) false = .ok t) ∧ (∃ e, build (clLengths [1, 1, 1, 0]) false = .error e) := by
  refine ⟨by decide, by decide, by decide, by decide, by decide, by decide, ?_, ?_⟩
  · exact ⟨[⟨1, 0, 16⟩, ⟨1, 1, 18⟩], by decide⟩
  · exact ⟨.eHuffOverfull, by decide⟩

theorem witness_CodeLengthSymbolsExtendTheList :
    inList.phase = .body ∧ inList.mid = .clSyms 0 0 clTable [2] ∧ ([2] : List (BitVec 4)).getLast? = some 2 ∧
    [2].length + 1 < (0 + 257) + (0 + 1) ∧ [2].length + (3 + (3#2).toNat) < (0 + 257) + (0 + 1) ∧
    [2].length + (3 + (7#3).toNat) < (0 + 257) + (0 + 1) ∧ [2].length + (11 + (127#7).toNat) < (0 + 257) + (0 + 1) := by decide

/-- The code-length list of HLIT 0 and an HDIST after some lengths. -/
def listAfter (hdist : BitVec 5) (lens : List (BitVec 4)) : State := { inList with mid := .clSyms 0 hdist clTable lens }

/-- One list for each clause: one length too many, no code for 256, three one-bit codes, two two-bit distance codes, and a list
that opens the block. -/
theorem witness_CodeLengthListEndsInTheTables :
    ((listAfter 0 (List.replicate 257 0)).phase = .body ∧
      (listAfter 0 (List.replicate 257 0)).mid = .clSyms 0 0 clTable (List.replicate 257 0)) ∧
    (appended (.clZero3 0) (List.replicate 256 0) = some [0, 0, 0] ∧ 258 < (List.replicate 256 0#4 ++ [0, 0, 0]).length) ∧
    (let l := List.replicate 257 0#4 ++ [0];
      appended (.clLen 0) (List.replicate 257 0) = some [0] ∧ l.length = 258 ∧ ((l.map BitVec.toNat).take 257)[256]? = some 0) ∧
    (let l := List.replicate 254 0#4 ++ [1, 1, 1] ++ [0];
      l.length = 258 ∧ ((l.map BitVec.toNat).take 257)[256]? ≠ some 0 ∧
      build ((l.map BitVec.toNat).take 257) false = .error .eHuffOverfull) ∧
    (let l := List.replicate 255 0#4 ++ [1, 1, 2] ++ [2];
      l.length = 259 ∧ ((l.map BitVec.toNat).take 257)[256]? ≠ some 0 ∧
      build ((l.map BitVec.toNat).take 257) false = .ok [⟨1, 0, 255⟩, ⟨1, 1, 256⟩] ∧
      build ((l.map BitVec.toNat).drop 257) true = .error .eHuffIncomplete) ∧
    (let l := List.replicate 255 0#4 ++ [1, 1] ++ [0];
      l.length = 258 ∧ ((l.map BitVec.toNat).take 257)[256]? ≠ some 0 ∧
      build ((l.map BitVec.toNat).take 257) false = .ok [⟨1, 0, 255⟩, ⟨1, 1, 256⟩] ∧
      build ((l.map BitVec.toNat).drop 257) true = .ok []) := by
  decide +kernel

theorem witness_CopyWithNoPreviousLengthFails :
    (placed (.clSym clTable true)).phase = .body ∧ (placed (.clSym clTable true)).mid = .clSyms 0 0 clTable [] ∧
    Fits 19 clTable ∧ PrefixCode clTable ∧ codeBits clTable 16 = some [false] := by decide

/-- For `LiteralIsEmitted`, `EndOfBlockReturnsToBetween`, `LengthSymbolsWithoutExtraBits`, `LengthSymbolsWithExtraBits`, `InvalidSymbolsFail`. -/
theorem witness_literal_length_symbols : inFixed.point = .element .llSym ∧ exec .eob inFixed = .next (State.settle
    { inFixed with bstate := .between, llTable := none, distTable := none }) := ⟨by decide, rfl⟩

theorem witness_LengthElementsFollowTheBandedFormula :
    (Instr.len257).llSymbol = some (257, 0, 0) ∧ (Instr.len284 31).llSymbol = some (284, 5, 31) ∧
    (Instr.len285).llSymbol = some (285, 0, 0) ∧ inFixed.point = .element .llSym := by decide

/-- For `ShortDistancesStartTheCopy`, `LongDistancesStartTheCopy`, `InvalidSymbolsFail`: at the limits of the distances. -/
theorem witness_distance_symbols :
    (afterLength 1).phase = .body ∧ (afterLength 1).mid = .dist 3 ∧ 3#9 ≠ 0#9 ∧ 1 ≤ (afterLength 1).totalOut ∧
    193 + (63#6).toNat ≤ (afterLength 256).totalOut ∧ 24577 + (8191#13).toNat ≤ (afterLength 32768).totalOut := by decide

theorem witness_BackReferencesAreChecked :
    (Instr.dist0).dSymbol = some (0, 0, 0) ∧ (Instr.dist29 8191).dSymbol = some (29, 13, 8191) ∧
    (afterLength 32767).mid = .dist 3 ∧ (afterLength 32767).phase = .body ∧ (afterLength 32767).totalOut < 32768 ∧
    32768 ≤ (afterLength 32768).totalOut := by decide

/-- For `ZlibHeaderIsAccepted`, `ZlibHeaderErrorsComeInOrder`. -/
theorem witness_ZlibHeader :
    (placed .zhdr).point = .element .zhdr ∧
    ((0x78#8).extractLsb' 0 4 = 8#4 ∧ (0x78 * 256 + 0xDA) % 31 = 0 ∧ (0xDA#8).getLsbD 5 = false) ∧
    (0x79#8).extractLsb' 0 4 ≠ 8#4 ∧ (0x78 * 256 + 0x9D) % 31 ≠ 0 ∧
    ((0x78 * 256 + 0xBB) % 31 = 0 ∧ (0xBB#8).getLsbD 5 = true) := by decide

theorem witness_ZlibTrailerIsCompared :
    (placed .ztrailer).point = .element .ztrailer ∧
    (1#32).toNat = (placed .ztrailer).adlerB.toNat * 65536 + (placed .ztrailer).adlerA.toNat ∧
    (0#32).toNat ≠ (placed .ztrailer).adlerB.toNat * 65536 + (placed .ztrailer).adlerA.toNat := by decide

theorem witness_EmittingElementsStoreOneWindowByte :
    Mem.wf inFixed.window ∧ emitted (.lit 0x61) = some 0x61 ∧ exec (.lit 0x61) inFixed = .next ((inFixed.push 0x61).settle) ∧
    emitted (.rawByte 7) = some 7 := ⟨by decide, rfl, rfl, rfl⟩

theorem witness_ElementsChangeOnlyTheirRegisters :
    ∃ t, exec (.storedHdr 5 0xFFFA) (placed .storedHdr) = .next t ∧ emits (.storedHdr 5 0xFFFA) = false ∧ t.phase ≠ .failed := by
  refine ⟨_, rfl, rfl, ?_⟩; decide

theorem witness_DueElementsCompleteAndOthersAreRefused :
    State.reset.point ≠ .element Instr.eob.format ∧ inFixed.point = .element Instr.eob.format ∧
    (placed (.clLens 4)).point = .element (Instr.clLens [1, 0, 1, 0]).format ∧
    (placed (.clLens 4)).mid = .clLens 0 0 0 := by decide

theorem witness_CopyStepEmitsTheByteAtTheDistance :
    runCopy.hostOps = [] ∧ runCopy.point = .copy ∧ runCopy.sinkReady = true ∧
    runCopy.window.read ((runCopy.wpos.toNat + 65536 - runCopy.copyDist.toNat) % 65536) = some 0x61 := by decide

theorem witness_EndOfBodyAlignsAndCompletes :
    let s : State := { placed .blkHdr with finalSeen := true, cur := ⟨7, 6, 0⟩ };
    s.hostOps = [] ∧ s.point = .bodyEnd ∧ s.mode = .raw ∧
    ({ s with mode := .zlib } : State).point = .bodyEnd := by decide

theorem witness_StepRunsTheDecodedElement :
    runA.hostOps = [] ∧ runA.point = .element .blkHdr ∧ runA.ctx .blkHdr = some .blkHdr ∧
    decode runA.source .blkHdr runA.cur = .elem (.blkFixed true) ⟨1, 3, 3⟩ ∧ (Instr.blkFixed true).WellFormed ∧
    emits (.blkFixed true) = false := ⟨rfl, rfl, rfl, rfl, rfl, rfl⟩

theorem witness_ExhaustedInputWaitsOrFails :
    let s := placed .blkHdr;
    (s.hostOps = [] ∧ s.point = .element .blkHdr ∧ s.ctx .blkHdr = some .blkHdr ∧ s.inEnded = false ∧
      decode s.source .blkHdr s.cur = .short) ∧
    (let r : State := { placed .rawByte with input := [(0, 7)], inLen := 1, sinkReady := false };
      r.point = .element .rawByte ∧ r.ctx .rawByte = some .rawByte ∧ r.cur.bitIdx = 0#3 ∧
      decode r.source .rawByte r.cur = .elem (.rawByte 7) ⟨1, 0, 0⟩ ∧ emits (.rawByte 7) = true) ∧
    ((placed (.dSym [])).hostOps = [] ∧ (placed (.dSym [])).point = .element .dSym ∧
      (placed (.dSym [])).ctx .dSym = some (.dSym [])) ∧
    ((placed (.llSym [])).hostOps = [] ∧ (placed (.llSym [])).point = .element .llSym ∧
      (placed (.llSym [])).ctx .llSym = some (.llSym [])) ∧
    ((placed (.clSym [] true)).hostOps = [] ∧ (placed (.clSym [] true)).point = .element .clSym ∧
      (placed (.clSym [] true)).ctx .clSym = some (.clSym [] true)) ∧
    ({ runCopy with sinkReady := false } : State).point = .copy :=
  ⟨⟨rfl, rfl, rfl, rfl, rfl⟩, ⟨rfl, rfl, rfl, rfl, rfl⟩, ⟨rfl, rfl, rfl⟩, ⟨rfl, rfl, rfl⟩, ⟨rfl, rfl, rfl⟩, rfl⟩

/-- For `DecodeInvertsEncode` and `EncodeInvertsDecode`, in a coded context and in a fixed one. -/
theorem witness_decode_and_encode :
    (Ctx.clSym clTable false).ok ∧ (Ctx.clSym clTable false).oneCodeEach ∧
    encode (.clSym clTable false) (.clZero3 7) = some [true, true, false, true, true, true] ∧
    decode listSource (.clSym clTable false) [true, true, false, true, true, true] = .elem (.clZero3 7) [] ∧
    Ctx.zhdr.ok ∧ encode .zhdr (.zhdr 0 0) = some (List.replicate 16 false) := by
  refine ⟨⟨by decide, by decide⟩, ?_, by decide, rfl, trivial, by decide⟩
  show (clTable.map Entry.sym).Nodup; decide

theorem witness_DecodedElementsAreWellFormedAndOfTheirFormat :
    (∀ n, Ctx.clLens 4 = .clLens n → 4 ≤ n ∧ n ≤ 19) ∧ (∀ n, Ctx.clLens 19 = .clLens n → 4 ≤ n ∧ n ≤ 19) ∧
    decode (cursorSource inB) .blkHdr ⟨0, 0, 0⟩ = .elem (.blkDynamic true) ⟨1, 3, 0xB5⟩ ∧
    decode listSource .blkHdr [true, true, false] = .elem (.blkFixed true) [] := by
  refine ⟨?_, ?_, rfl, rfl⟩ <;> · rintro n ⟨⟩; decide

theorem witness_FieldsAreReadLeastSignificantBitFirst :
    3 ≤ (bs [1, 0, 1]).length ∧ (bs [1, 0]).length < 3 := by decide

/-- For `CursorReadsAdvanceByTheBitsTheyRead`, `AlignDropsTheRestOfTheByte`, `ByteReadsAgree`. -/
theorem witness_cursors :
    CursorOk inB ⟨1, 3, 0xB5⟩ ∧ CursorOk inB ⟨0, 0, 0⟩ ∧
    eatBits (cursorSource inB) 5 ⟨1, 3, 0xB5⟩ = some (22, ⟨1, 0, 0xB5⟩) ∧ eatBits (cursorSource inB) 1 ⟨3, 0, 1⟩ = none := by
  refine ⟨fun _ => ⟨by decide, rfl⟩, fun h => absurd rfl h, rfl, rfl⟩

/-- For `BuildGivesPrefixCodes`, `BuildGivesCompleteTables`, `BuildDecidesByTheCodeSpace`, `CodesAreAssignedInCanonicalOrder`. -/
theorem witness_built :
    Built 4 false [⟨2, 2, 0⟩, ⟨1, 0, 1⟩, ⟨3, 6, 2⟩, ⟨3, 7, 3⟩] ∧ (∀ l ∈ [2, 1, 3, 3], l ≤ 15) ∧
    build [2, 1, 3, 3] false = .ok [⟨2, 2, 0⟩, ⟨1, 0, 1⟩, ⟨3, 6, 2⟩, ⟨3, 7, 3⟩] ∧ Built 3 true [] ∧
    2 ≤ ([2, 1, 3, 3].filter (· ≠ 0)).length ∧
    2 ^ 15 < kraft [1, 1, 1] ∧ kraft [2, 2, 2] < 2 ^ 15 ∧ kraft [2, 1, 3, 3] = 2 ^ 15 := by
  refine ⟨⟨[2, 1, 3, 3], by decide, by decide, by decide⟩, by decide, by decide, ⟨[0, 0, 0], by decide, by decide, by decide⟩, ?_⟩
  decide

theorem witness_SingleCodesAreRepaired :
    listSource.bit [true, false] = some (true, [false]) ∧ listSource.bit [false, false] = some (false, [false]) ∧
    [0, 5, 0][1]? = some 5 ∧ 5 ≠ 0 ∧ ∀ k m, [0, 5, 0][k]? = some m → k ≠ 1 → m = 0 := by
  refine ⟨rfl, rfl, rfl, by decide, fun k m h hk => ?_⟩
  match k, h, hk with
  | 0, h, _ => exact (Option.some.inj h).symm
  | 1, _, hk => exact absurd rfl hk
  | 2, h, _ => exact (Option.some.inj h).symm

/-- For `EveryStepKeepsTheInvariant`, `TheMachineNeverFaultsAndTheEngineNeverStops`. -/
theorem witness_invariant :
    (∃ t, runA.Inv ∧ step runA = .next t) ∧ (∃ t, runCopy.Inv ∧ step runCopy = .next t) ∧
    (∃ r, ({ runA with hostOps := [.newInput] } : State).Inv ∧
      step { runA with hostOps := [.newInput] } = .refused r) := by
  refine ⟨⟨_, runA_inv, rfl⟩, ⟨_, runCopy_inv, rfl⟩, ⟨_, ?_, rfl⟩⟩
  exact { runA_inv with }

theorem witness_EveryRunEnds :
    runA.Inv ∧ runA.hostOps = [] ∧ runA.phase.busy = true ∧ runA.inEnded = true ∧ runA.sinkReady = true :=
  ⟨runA_inv, rfl, rfl, rfl, rfl⟩

theorem runA_sameRun : SameRun runA { runA with cur := ⟨0, 0, 0xFF⟩, window := [(9, 9)], out := [1, 2, 3], fresh := 5 } where
  host := by decide
  control := by decide
  result := by decide
  place := rfl
  out := by decide
  cursor := by decide
  engine := by decide
  status := by decide
  window := by decide

theorem witness_ARunDependsOnlyOnItsInput :
    (let s := State.reset; let t := State.reset.raise .eNoEob;
      s.phase.busy = false ∧ t.phase.busy = false ∧ s.hostOps = t.hostOps ∧ s.input = t.input ∧ s.inLen = t.inLen ∧
      s.inEnded = t.inEnded ∧ s.sinkReady = t.sinkReady ∧ s.startOff = t.startOff ∧ s.ctrlMode = t.ctrlMode) ∧
    ∃ t s', SameRun runA t ∧ runA.Inv ∧ runA.hostOps = [] ∧ step runA = .next s' :=
  ⟨by decide, _, _, runA_sameRun, runA_inv, rfl, rfl⟩

/-- BLK_FIXED of V-S8 reads byte 0 only: byte 1 may be anything. -/
theorem witness_BytesAheadAreNotExamined :
    ∃ t, runA.hostOps = [] ∧ step runA = .next t ∧ t ≠ runA ∧ t.phase ≠ .failed ∧
      ∀ p < t.cur.inPos, State.inByte { runA with input := [(0, 3), (1, 0xFF)], inLen := 2 } p = runA.inByte p := by
  refine ⟨_, rfl, rfl, ?_, by decide, ?_⟩
  · intro h; exact absurd (congrArg State.finalSeen h) (by decide)
  · decide

theorem witness_EngineStepsAreTheRulesEngineSteps :
    runA.Inv ∧ runA.phase = .body ∧ runA.mid = .settled ∧ runA.inEnded = true ∧ runA.sinkReady = true :=
  ⟨runA_inv, rfl, rfl, rfl, rfl⟩

/-- A state whose engine step answers NONE, and one whose engine step answers a byte. -/
theorem witness_NextValueRepeatsEngineSteps :
    (runA.Inv ∧ runA.phase = .body ∧ runA.mid = .settled ∧ runA.inEnded = true ∧ runA.sinkReady = true ∧ runA.hostOps = []) ∧
    (match runA.engineStep 400 with | .next u => stepResult runA u == .none | _ => false) = true ∧
    (match runCopy.engineStep 400 with | .next u => stepResult runCopy u == .byte 0x61 | _ => false) = true ∧ runCopy.Inv :=
  ⟨⟨runA_inv, rfl, rfl, rfl, rfl, rfl⟩, by decide +kernel, by decide +kernel, runCopy_inv⟩

theorem witness_AWholeCopyRepeatsTheDistance :
    runCopy.Inv ∧ runCopy.hostOps = [] ∧ runCopy.point = .copy ∧ runCopy.sinkReady = true :=
  ⟨runCopy_inv, rfl, rfl, rfl⟩

theorem witness_EngineStepsEmitAtMostOneByte : ∃ t, runCopy.engine = .next t ∧ t.out = runCopy.out ++ [0x61] :=
  ⟨_, rfl, rfl⟩

theorem witness_ThePlacedTableWordIsTheOneFetched :
    Mem.wf State.reset.input ∧ decodeTableWord 8 2 = some (.blkFixed false) ∧ decodeTableWord 8 96 = some (.rawByte 96) := by
  decide

end Sys2Proof.Tests
end

section
/-! PROOFS. What a step of the engine emits (00_scope.md R4, 20_memory.md R61, R65, R66): one frame for every element, settling O58. -/

namespace Sys2Proof.Machine

variable {s t u : State} {bytes : List Byte}

/-- From `s` to `t` the engine appends `bytes` to `OUT` and counts them; `IN`, the host's side, `CTRL.MODE` and `START_OFF` keep
their values. Where `t` is written as an update of `s`, `rfl` fills in every field but `out`. -/
structure State.Emits (s t : State) (bytes : List Byte) : Prop where
  out       : t.out = s.out ++ bytes
  totalOut  : t.totalOut = s.totalOut + bytes.length := by rfl
  input     : t.input = s.input := by rfl
  inLen     : t.inLen = s.inLen := by rfl
  inEnded   : t.inEnded = s.inEnded := by rfl
  hostOps   : t.hostOps = s.hostOps := by rfl
  sinkReady : t.sinkReady = s.sinkReady := by rfl
  ctrlMode  : t.ctrlMode = s.ctrlMode := by rfl
  startOff  : t.startOff = s.startOff := by rfl

namespace State

theorem Emits.refl (s : State) : s.Emits s [] := { out := by simp }

/-- Moving the cursor before a step changes nothing of what the step emits. -/
theorem Emits.of_cur {c : Cursor} (h : State.Emits { s with cur := c } t bytes) : s.Emits t bytes := { h with }

/-- A meaning with one effect emits what the effect emits. -/
theorem Emits.of_whenDue {f : Format} (h : s.whenDue f (.next u) = .next t) (hu : s.Emits u bytes) : s.Emits t bytes := by
  obtain ⟨-, rfl⟩ : s.point = .element f ∧ t = u := by simpa only [whenDue_next, next_eq_next] using h
  exact hu

theorem emits_raise (s : State) (e : ErrCode) : s.Emits (s.raise e) [] := { out := by simp }

theorem emits_finishBody (s : State) : s.Emits s.finishBody [] := by
  unfold finishBody
  split <;> exact { out := by simp }

theorem emits_finishLens (s : State) (hlit hdist : BitVec 5) (lens : List (BitVec 4)) :
    s.Emits (s.finishLens hlit hdist lens) [] := by
  obtain ⟨e, h, -⟩ | ⟨ll, d, -, -, -, h⟩ := s.finishLens_cases hlit hdist lens <;> rw [h]
  · exact s.emits_raise e
  · exact { out := by simp }

theorem emits_startCopy (s : State) (length : BitVec 9) (distance : BitVec 16) :
    s.Emits (s.startCopy length distance) [] := by
  obtain ⟨-, h⟩ | ⟨-, -, -, h⟩ := s.startCopy_cases length distance <;> rw [h]
  · exact s.emits_raise .eBackref
  · exact { out := by simp }

theorem lengthSymbol_emits {length : BitVec 9} (h : s.lengthSymbol length = .next t) : s.Emits t [] := by
  obtain ⟨-, rfl⟩ := lengthSymbol_next.1 h
  exact { out := by simp }

theorem distanceSymbol_emits {distance : BitVec 16} (h : s.distanceSymbol distance = .next t) : s.Emits t [] := by
  obtain ⟨length, -, -, rfl⟩ := distanceSymbol_next.1 h
  exact s.emits_startCopy length distance

theorem codeLengths_emits {produce : List (BitVec 4) → Option (List (BitVec 4))} (h : s.codeLengths produce = .next t) :
    s.Emits t [] := by
  obtain ⟨hlit, hdist, tab, lens, -, -, h⟩ := codeLengths_next.1 h
  obtain ⟨-, rfl⟩ | ⟨new, -, ⟨-, rfl⟩ | ⟨-, rfl⟩⟩ := h
  · exact s.emits_raise .eDynRepeat
  · exact { out := by simp }
  · exact s.emits_finishLens hlit hdist (lens ++ new)

theorem copyStep_emits (h : s.copyStep = .next t) : ∃ b, s.Emits t [b] := by
  obtain ⟨b, -, rfl⟩ := copyStep_next.1 h
  exact ⟨b, { out := rfl }⟩

end State

/-- STORED_HDR (R206): the complement check fails, or the length is loaded. -/
theorem execStoredHdr_emits {len nlen : BitVec 16} (h : execStoredHdr len nlen s = .next t) : s.Emits t [] := by
  refine State.Emits.of_whenDue h ?_
  split
  · exact s.emits_raise .eStoredLen
  · exact { out := by simp }

/-- CLLENS (R175, R176): due after DYNHDR only, with as many fields as it announced; an error of BUILD, or the code-length table. -/
theorem execClLens_next {lens : List (BitVec 3)} :
    execClLens lens s = .next t ↔
      ∃ hlit hdist hclen, s.mid = .clLens hlit hdist hclen ∧ lens.length = ncl hclen ∧ s.point = .element .clLens ∧
        ((∃ e, build (clLengths lens) false = .error e ∧ t = s.raise e) ∨
         ∃ tab, build (clLengths lens) false = .ok tab ∧ t = { s with mid := .clSyms hlit hdist tab [] }) := by
  unfold execClLens
  cases hm : s.mid with
  | clLens hlit hdist hclen =>
    by_cases hl : lens.length = ncl hclen
    · cases hb : build (clLengths lens) false <;> simp [hl, State.whenDue_next, -Host.Outcome.next.injEq]
    · simp [hl]
  | _ => simp

theorem execClLens_emits {lens : List (BitVec 3)} (h : execClLens lens s = .next t) : s.Emits t [] := by
  obtain ⟨hlit, hdist, hclen, -, -, -, ⟨e, -, rfl⟩ | ⟨tab, -, rfl⟩⟩ := execClLens_next.1 h
  · exact s.emits_raise e
  · exact { out := by simp }

/-- ZHDR (R280): one of the three checks fails, or the body is next. -/
theorem execZhdr_emits {cmf flg : Byte} (h : execZhdr cmf flg s = .next t) : s.Emits t [] := by
  refine State.Emits.of_whenDue h ?_
  split <;> exact { out := by simp }

/-- ZTRAILER (R286, R287): the comparison fails, or the run is done. -/
theorem execZtrailer_emits {expected : BitVec 32} (h : execZtrailer expected s = .next t) : s.Emits t [] := by
  refine State.Emits.of_whenDue h ?_
  split
  · exact s.emits_raise .eZlibAdler
  · exact { out := by simp }

/-- Every element emits its own bytes and keeps the host's side: the frame of `exec`. -/
theorem exec_emits {i : Instr} (h : exec i s = .next t) : s.Emits t (emitted i).toList := by
  cases i with
  | rawByte | lit => exact .of_whenDue h { out := rfl }
  | blkStored | blkFixed | blkDynamic | blkReserved | dynHdr | eob | llInvalid | distInvalid =>
    exact .of_whenDue h { out := by simp [emitted] }
  | storedHdr => exact execStoredHdr_emits h
  | clLens => exact execClLens_emits h
  | clLen | clCopy | clZero3 | clZero11 =>
    simp only [exec, execClLen, execClCopy, execClZero3, execClZero11] at h
    exact State.codeLengths_emits h
  | len257 | len258 | len259 | len260 | len261 | len262 | len263 | len264 | len265 | len266 | len267 | len268 | len269
  | len270 | len271 | len272 | len273 | len274 | len275 | len276 | len277 | len278 | len279 | len280 | len281 | len282
  | len283 | len284 | len285 => exact State.lengthSymbol_emits h
  | dist0 | dist1 | dist2 | dist3 | dist4 | dist5 | dist6 | dist7 | dist8 | dist9 | dist10 | dist11 | dist12 | dist13
  | dist14 | dist15 | dist16 | dist17 | dist18 | dist19 | dist20 | dist21 | dist22 | dist23 | dist24 | dist25 | dist26
  | dist27 | dist28 | dist29 => exact State.distanceSymbol_emits h
  | zhdr => exact execZhdr_emits h
  | ztrailer => exact execZtrailer_emits h

/-- An element step emits nothing while the block idles, waits, fails or ends the body; else the byte of the copy or of the
element. -/
theorem State.engine_emits (h : s.engine = .next t) : ∃ bytes, bytes.length ≤ 1 ∧ s.Emits t bytes := by
  obtain ⟨-, rfl⟩ | ⟨-, rfl⟩ | ⟨-, -, rfl⟩ | ⟨-, -, hcopy⟩ | ⟨f, -, hf⟩ := State.engine_next.1 h
  · exact ⟨[], by simp, .refl t⟩
  · exact ⟨[], by simp, s.emits_finishBody⟩
  · exact ⟨[], by simp, .refl t⟩
  · obtain ⟨b, hb⟩ := State.copyStep_emits hcopy
    exact ⟨[b], by simp, hb⟩
  · obtain ⟨-, rfl⟩ | ⟨e, -, rfl⟩ | ⟨i, s1, hfetch, ⟨-, -, rfl⟩ | ⟨-, hexec⟩⟩ := hf
    · exact ⟨[], by simp, .refl t⟩
    · exact ⟨[], by simp, s.emits_raise e⟩
    · exact ⟨[], by simp, .refl t⟩
    · obtain ⟨-, c, cur, -, -, rfl⟩ := State.fetch_elem.1 hfetch
      exact ⟨(emitted i).toList, Option.length_toList_le, (exec_emits hexec).of_cur⟩

/-- Settles O58, by the frame `State.Emits` of each element and of the copy step. -/
theorem engineStepsEmitAtMostOneByte : Obligations.EngineStepsEmitAtMostOneByte := by
  intro s t h
  obtain ⟨bytes, hlen, hemits⟩ := State.engine_emits h
  exact ⟨bytes, hlen, hemits.out, hemits.totalOut, hemits.input, hemits.inLen, hemits.inEnded, hemits.hostOps,
    hemits.sinkReady, hemits.ctrlMode, hemits.startOff⟩

end Sys2Proof.Machine
end

section
/-! PROOFS. What reading an element does (30_encoding.md R90 to R103): each read taken apart once, and what
every bit keeps. -/

namespace Sys2Proof

open Machine

variable {σ : Type} {src : Source σ} {P : σ → Prop} {s s' : σ} {i : Instr}

theorem Decoded.ofOption_elem {o : Option (Instr × σ)} : Decoded.ofOption o = .elem i s' ↔ o = some (i, s') := by
  rcases o with _ | ⟨j, u⟩ <;> simp [Decoded.ofOption]

theorem readBlkHdr_some :
    readBlkHdr src s = some (i, s') ↔
      ∃ bfinal s1, eatBits src 1 s = some (bfinal, s1) ∧ ∃ btype, eatBits src 2 s1 = some (btype, s') ∧
        i = blkInstr bfinal btype := by
  unfold readBlkHdr
  rcases eatBits src 1 s with _ | ⟨bfinal, s1⟩ <;> simp [eq_comm]

theorem readStoredHdr_some :
    readStoredHdr src s = some (i, s') ↔
      ∃ len s1, eatBits src 16 s = some (len, s1) ∧ ∃ nlen, eatBits src 16 s1 = some (nlen, s') ∧
        i = .storedHdr (BitVec.ofNat 16 len) (BitVec.ofNat 16 nlen) := by
  unfold readStoredHdr
  rcases eatBits src 16 s with _ | ⟨len, s1⟩ <;> simp [eq_comm]

theorem readZhdr_some :
    readZhdr src s = some (i, s') ↔
      ∃ cmf s1, eatBits src 8 s = some (cmf, s1) ∧ ∃ flg, eatBits src 8 s1 = some (flg, s') ∧
        i = .zhdr (BitVec.ofNat 8 cmf) (BitVec.ofNat 8 flg) := by
  unfold readZhdr
  rcases eatBits src 8 s with _ | ⟨cmf, s1⟩ <;> simp [eq_comm]

theorem readDynHdr_some :
    readDynHdr src s = some (i, s') ↔
      ∃ hlit s1, eatBits src 5 s = some (hlit, s1) ∧ ∃ hdist s2, eatBits src 5 s1 = some (hdist, s2) ∧
        ∃ hclen, eatBits src 4 s2 = some (hclen, s') ∧
          i = .dynHdr (BitVec.ofNat 5 hlit) (BitVec.ofNat 5 hdist) (BitVec.ofNat 4 hclen) := by
  unfold readDynHdr
  rcases eatBits src 5 s with _ | ⟨hlit, s1⟩
  · simp
  · rcases h1 : eatBits src 5 s1 with _ | ⟨hdist, s2⟩ <;> simp [h1, eq_comm]

theorem readClLens_some {n : Nat} :
    readClLens src n s = some (i, s') ↔
      ∃ vs, eatFields src 3 n s = some (vs, s') ∧ i = .clLens (vs.map (BitVec.ofNat 3)) := by
  simp [readClLens, eq_comm]

theorem readRawByte_some :
    readRawByte src s = some (i, s') ↔ ∃ b, src.byte s = some (b, s') ∧ i = .rawByte b := by
  simp [readRawByte, eq_comm]

theorem readZtrailer_some :
    readZtrailer src s = some (i, s') ↔
      ∃ v, eatBits src 32 s = some (v, s') ∧ i = .ztrailer (BitVec.ofNat 32 (byteReverse 4 v)) := by
  simp [readZtrailer, eatBitsSwap, eq_comm]

theorem decodeCoded_elem {t : Table} {extra : Nat → Nat} {instr : Nat → Nat → Option Instr} :
    decodeCoded src t extra instr s = .elem i s' ↔
      t.isEmpty = false ∧ ∃ sym s1, decodeSym src t s = some (sym, s1) ∧
        ∃ x, eatBits src (extra sym) s1 = some (x, s') ∧ instr sym x = some i := by
  unfold decodeCoded
  cases t.isEmpty with
  | true => simp
  | false =>
    rcases decodeSym src t s with _ | ⟨sym, s1⟩
    · simp
    · rcases h1 : eatBits src (extra sym) s1 with _ | ⟨x, s2⟩
      · simp [h1]
      · rcases h2 : instr sym x with _ | j <;> simp [h1, h2, and_comm]

/-- Taking one bit from the source leaves a property of it in place. -/
def Machine.Source.Keeps (src : Source σ) (P : σ → Prop) : Prop :=
  ∀ s b s', src.bit s = some (b, s') → P s → P s'

namespace Machine.Source.Keeps

theorem eatBits (h : src.Keeps P) {n v : Nat} (hr : Machine.eatBits src n s = some (v, s')) (hs : P s) : P s' := by
  induction n generalizing s v with
  | zero => cases hr; exact hs
  | succ n ih =>
    simp only [eatBits_succ, Option.bind_eq_some_iff, Option.map_eq_some_iff, Prod.mk.injEq] at hr
    obtain ⟨p, hbit, q, hrest, -, rfl⟩ := hr
    exact ih hrest (h _ _ _ hbit hs)

theorem eatFields (h : src.Keeps P) {n k : Nat} {vs : List Nat} (hr : Machine.eatFields src n k s = some (vs, s'))
    (hs : P s) : P s' := by
  induction k generalizing s vs with
  | zero => cases hr; exact hs
  | succ k ih =>
    unfold Machine.eatFields at hr
    split at hr
    · cases hr
    next hfield =>
      split at hr
      · cases hr
      next hrest => cases hr; exact ih hrest (h.eatBits hfield hs)

theorem walk (h : src.Keeps P) {t : Table} {fuel len code sym : Nat}
    (hr : Machine.walk src t fuel len code s = some (sym, s')) (hs : P s) : P s' := by
  induction fuel generalizing len code s with
  | zero => cases hr
  | succ fuel ih =>
    unfold Machine.walk at hr
    split at hr
    · cases hr
    next hbit =>
      split at hr
      · cases hr; exact h _ _ _ hbit hs
      · exact ih hr (h _ _ _ hbit hs)

theorem decodeCoded (h : src.Keeps P) {t : Table} {extra : Nat → Nat} {instr : Nat → Nat → Option Instr}
    (hr : Sys2Proof.decodeCoded src t extra instr s = .elem i s') (hs : P s) : P s' := by
  obtain ⟨-, sym, s1, hsym, x, hx, -⟩ := decodeCoded_elem.1 hr
  exact h.eatBits hx (h.walk hsym hs)

/-- Whatever each single bit keeps, reading an element keeps, a raw byte alone excepted: it is not read bit by bit (R143). -/
theorem decode (h : src.Keeps P) {c : Ctx} (hc : c ≠ .rawByte) (hr : Sys2Proof.decode src c s = .elem i s') (hs : P s) :
    P s' := by
  cases c with
  | zhdr =>
    obtain ⟨_, s1, h1, _, h2, -⟩ := readZhdr_some.1 (Decoded.ofOption_elem.1 hr)
    exact h.eatBits h2 (h.eatBits h1 hs)
  | blkHdr =>
    obtain ⟨_, s1, h1, _, h2, -⟩ := readBlkHdr_some.1 (Decoded.ofOption_elem.1 hr)
    exact h.eatBits h2 (h.eatBits h1 hs)
  | storedHdr =>
    obtain ⟨_, s1, h1, _, h2, -⟩ := readStoredHdr_some.1 (Decoded.ofOption_elem.1 hr)
    exact h.eatBits h2 (h.eatBits h1 hs)
  | dynHdr =>
    obtain ⟨_, s1, h1, _, s2, h2, _, h3, -⟩ := readDynHdr_some.1 (Decoded.ofOption_elem.1 hr)
    exact h.eatBits h3 (h.eatBits h2 (h.eatBits h1 hs))
  | clLens n =>
    obtain ⟨_, h1, -⟩ := readClLens_some.1 (Decoded.ofOption_elem.1 hr)
    exact h.eatFields h1 hs
  | rawByte => exact absurd rfl hc
  | ztrailer =>
    obtain ⟨_, h1, -⟩ := readZtrailer_some.1 (Decoded.ofOption_elem.1 hr)
    exact h.eatBits h1 hs
  | clSym | llSym | dSym => exact h.decodeCoded hr hs

end Machine.Source.Keeps

/-! The input cursor as a source. -/

namespace Machine

variable {fetch : Nat → Option Byte} {c c' : Cursor}

theorem nextBit_bitIdx {b : Bool} (h : nextBit fetch c = some (b, c')) : c'.bitIdx = c.bitIdx + 1#3 := by
  obtain ⟨p, k, byte⟩ := c
  by_cases hk : k = 0#3
  · subst hk
    rw [nextBit_fetch, Option.map_eq_some_iff] at h
    obtain ⟨byte', -, he⟩ := h
    cases he
    rfl
  · rw [nextBit_buffered _ _ hk] at h
    cases h
    rfl

/-- `EAT_BITS(n)` moves `bit_idx` by `n` modulo 8 (R140, R141). -/
theorem eatBits_bitIdx {n v : Nat} (h : eatBits (cursorSource fetch) n c = some (v, c')) :
    c'.bitIdx = c.bitIdx + BitVec.ofNat 3 n := by
  induction n generalizing c v with
  | zero => cases h; simp
  | succ n ih =>
    simp only [eatBits_succ, Option.bind_eq_some_iff, Option.map_eq_some_iff, Prod.mk.injEq] at h
    obtain ⟨p, hbit, q, hrest, -, rfl⟩ := h
    rw [ih hrest, nextBit_bitIdx hbit, BitVec.ofNat_add, BitVec.add_assoc, BitVec.add_comm 1#3]

theorem nextRaw_bitIdx {b : Byte} (h : nextRaw fetch c = some (b, c')) : c'.bitIdx = c.bitIdx := by
  unfold nextRaw at h
  split at h
  · cases h
  · cases h; rfl

/-- The reads of a cursor keep the byte inside which it stands buffered (R21): a fetch buffers the byte before `in_pos`, and a
bit inside a byte moves neither. -/
theorem cursorSource_keeps_cursorOk {mem : Nat → Option Byte} (h : ∀ p b, fetch p = some b → mem p = some b) :
    (cursorSource fetch).Keeps (CursorOk mem) := by
  rintro ⟨p, k, byte⟩ b c' hbit hc
  by_cases hk : k = 0#3
  · subst hk
    obtain ⟨byte', hf, he⟩ := Option.map_eq_some_iff.1 ((nextBit_fetch fetch p byte).symm.trans hbit)
    cases he
    exact fun _ => ⟨Nat.le_add_left 1 p, h _ _ hf⟩
  · cases (nextBit_buffered fetch _ hk).symm.trans hbit
    exact fun _ => hc hk

end Machine

/-- The formats whose elements are whole bytes of the input (R94, R102, R103, R143). -/
def Format.wholeBytes : Format → Bool
  | .zhdr | .storedHdr | .rawByte | .ztrailer => true
  | _ => false

open Machine

/-- An element of whole bytes leaves `bit_idx` as it was. -/
theorem decode_bitIdx {fetch : Nat → Option Byte} {ctx : Ctx} {c c' : Cursor} (hc : ctx.format.wholeBytes = true)
    (h : decode (cursorSource fetch) ctx c = .elem i c') : c'.bitIdx = c.bitIdx := by
  cases ctx with
  | zhdr =>
    obtain ⟨_, c1, h1, _, h2, -⟩ := readZhdr_some.1 (Decoded.ofOption_elem.1 h)
    simp [eatBits_bitIdx h2, eatBits_bitIdx h1]
  | storedHdr =>
    obtain ⟨_, c1, h1, _, h2, -⟩ := readStoredHdr_some.1 (Decoded.ofOption_elem.1 h)
    simp [eatBits_bitIdx h2, eatBits_bitIdx h1]
  | rawByte =>
    obtain ⟨_, h1, -⟩ := readRawByte_some.1 (Decoded.ofOption_elem.1 h)
    exact nextRaw_bitIdx h1
  | ztrailer =>
    obtain ⟨_, h1, -⟩ := readZtrailer_some.1 (Decoded.ofOption_elem.1 h)
    simp [eatBits_bitIdx h1]
  | _ => cases hc

end Sys2Proof
end

section
/-! PROOFS. What is due (R91): the table of R91 read backwards. -/

namespace Sys2Proof.Machine

variable {s : State} {f : Format}

/-- Where the table of R91 asks for an element of a format. -/
def State.DueAt (s : State) : Format → Prop
  | .zhdr => s.phase = .zhdr
  | .ztrailer => s.phase = .ztrailer
  | .blkHdr => s.phase = .body ∧ s.mid = .settled ∧ s.bstate = .between ∧ s.finalSeen = false
  | .rawByte => s.phase = .body ∧ s.mid = .settled ∧ s.bstate = .stored
  | .llSym => s.phase = .body ∧ s.mid = .settled ∧ s.huffman ∧ s.copyLen = 0#9
  | .storedHdr => s.phase = .body ∧ s.mid = .storedHdr
  | .dynHdr => s.phase = .body ∧ s.mid = .dynHdr
  | .clLens => s.phase = .body ∧ ∃ hlit hdist hclen, s.mid = .clLens hlit hdist hclen
  | .clSym => s.phase = .body ∧ ∃ hlit hdist t lens, s.mid = .clSyms hlit hdist t lens
  | .dSym => s.phase = .body ∧ ∃ length, s.mid = .dist length

theorem State.bodyPoint_element (h : s.bodyPoint = .element f) (hp : s.phase = .body) (hm : s.mid = .settled) :
    s.DueAt f := by
  unfold State.bodyPoint at h
  split at h
  next hb =>
    cases hf : s.finalSeen <;> simp only [hf] at h <;> cases h
    exact ⟨hp, hm, hb, hf⟩
  next hb => cases h; exact ⟨hp, hm, hb⟩
  all_goals
    next hb =>
      split at h <;> cases h
      exact ⟨hp, hm, by simp [State.huffman, hb], ‹_›⟩

theorem State.point_element (h : s.point = .element f) : s.DueAt f := by
  cases hp : s.phase with
  | idle | done | failed => simp [State.point, hp] at h
  | zhdr =>
    obtain rfl : Format.zhdr = f := by simpa [State.point, hp] using h
    exact hp
  | ztrailer =>
    obtain rfl : Format.ztrailer = f := by simpa [State.point, hp] using h
    exact hp
  | body =>
    cases hm : s.mid with
    | settled => exact State.bodyPoint_element (by simpa [State.point, hp, hm] using h) hp hm
    | storedHdr =>
      obtain rfl : Format.storedHdr = f := by simpa [State.point, hp, hm] using h
      exact ⟨hp, hm⟩
    | dynHdr =>
      obtain rfl : Format.dynHdr = f := by simpa [State.point, hp, hm] using h
      exact ⟨hp, hm⟩
    | clLens hlit hdist hclen =>
      obtain rfl : Format.clLens = f := by simpa [State.point, hp, hm] using h
      exact ⟨hp, hlit, hdist, hclen, hm⟩
    | clSyms hlit hdist t lens =>
      obtain rfl : Format.clSym = f := by simpa [State.point, hp, hm] using h
      exact ⟨hp, hlit, hdist, t, lens, hm⟩
    | dist length =>
      obtain rfl : Format.dSym = f := by simpa [State.point, hp, hm] using h
      exact ⟨hp, length, hm⟩

theorem State.busy_of_element (h : s.point = .element f) : s.phase.busy = true := by
  cases hp : s.phase with
  | idle | done | failed => simp [State.point, hp] at h
  | zhdr | body | ztrailer => rfl

/-- A copy step or the end of the body comes between engine steps of the body only (R202). -/
theorem State.point_settled (h : s.point = .copy ∨ s.point = .bodyEnd) :
    s.phase = .body ∧ s.mid = .settled ∧ s.bodyPoint = s.point := by
  cases hp : s.phase with
  | body =>
    cases hm : s.mid with
    | settled => exact ⟨rfl, rfl, by simp [State.point, hp, hm]⟩
    | _ => simp [State.point, hp, hm] at h
  | _ => simp [State.point, hp] at h

theorem State.point_copy (h : s.point = .copy) :
    s.phase = .body ∧ s.mid = .settled ∧ s.huffman ∧ s.copyLen ≠ 0#9 := by
  obtain ⟨hp, hm, hb⟩ := State.point_settled (.inl h)
  rw [h, State.bodyPoint] at hb
  cases hbs : s.bstate <;> simp_all [State.huffman, ite_eq_iff]

theorem State.point_bodyEnd (h : s.point = .bodyEnd) : s.phase = .body ∧ s.mid = .settled ∧ s.bstate = .between := by
  obtain ⟨hp, hm, hb⟩ := State.point_settled (.inr h)
  rw [h, State.bodyPoint] at hb
  cases hbs : s.bstate <;> simp_all [ite_eq_iff]

theorem State.ctx_format {c : Ctx} (h : s.ctx f = some c) : c.format = f := by
  cases f <;> simp only [State.ctx, Option.map_eq_some_iff] at h
  case clLens | clSym => split at h <;> cases h; rfl
  case llSym | dSym => obtain ⟨t, -, rfl⟩ := h; rfl
  all_goals cases h; rfl

end Sys2Proof.Machine
end

section
/-! PROOFS. PUSH keeps the invariant (43_lz77_window.md R251, 45_zlib_framer.md R289): the sums, the window, `OUT`. -/

namespace Sys2Proof.Machine

variable {s : State}

@[simp] theorem adlerNextA_toNat (a : BitVec 16) (x : Byte) :
    (adlerNextA a x).toNat = (a.toNat + x.toNat) % Config.adlerMod := by
  simp only [adlerNextA, BitVec.toNat_ofNat, Config.adlerMod]
  omega

@[simp] theorem adlerNextB_toNat (b a : BitVec 16) : (adlerNextB b a).toNat = (b.toNat + a.toNat) % Config.adlerMod := by
  simp only [adlerNextB, BitVec.toNat_ofNat, Config.adlerMod]
  omega

theorem adlerSums_append (bytes : List Byte) (x : Byte) :
    adlerSums (bytes ++ [x]) =
      ((adlerSums bytes).1 + x.toNat, (adlerSums bytes).2 + ((adlerSums bytes).1 + x.toNat)) := by
  simp [adlerSums]

theorem State.push_runOut (h : s.totalOut ≤ s.out.length) (b : Byte) : (s.push b).runOut = s.runOut ++ [b] := by
  have hlen : s.out.length + 1 - (s.totalOut + 1) = s.out.length - s.totalOut := by omega
  simp [State.runOut, hlen, List.drop_append_of_le_length]

/-- The window still holds the most recent bytes of the run after PUSH (R30 (d), R251): the new byte at distance 1, every other
one further away. -/
theorem State.push_history (hw : Mem.wf s.window) (hlen : s.totalOut ≤ s.out.length)
    (h : ∀ k < min s.totalOut Config.windowSize,
      s.window.read (s.wpos - BitVec.ofNat 16 (k + 1)).toNat = s.out[s.out.length - (k + 1)]?) (b : Byte) :
    ∀ k < min (s.push b).totalOut Config.windowSize,
      (s.push b).window.read ((s.push b).wpos - BitVec.ofNat 16 (k + 1)).toNat
        = (s.push b).out[(s.push b).out.length - (k + 1)]? := by
  intro k hk
  simp only [Config.windowSize, State.push_totalOut, Nat.lt_min] at hk
  have haddr : (s.push b).wpos - BitVec.ofNat 16 (k + 1) = s.wpos - BitVec.ofNat 16 k := by
    rw [State.push_wpos]
    bv_omega
  rw [haddr, s.push_read hw]
  cases k with
  | zero => simp
  | succ k =>
    have hne : (s.wpos - BitVec.ofNat 16 (k + 1)).toNat ≠ s.wpos.toNat := by
      rw [BitVec.toNat_sub, BitVec.toNat_ofNat]
      omega
    rw [if_neg hne, h k (by simp only [Config.windowSize, Nat.lt_min]; omega)]
    simp only [State.push_out, List.length_append, List.length_singleton]
    rw [List.getElem?_append_left (by omega), Nat.add_sub_add_right]

theorem State.Inv.push (h : s.Inv) (b : Byte) : (s.push b).Inv :=
  { h with
    window := ⟨s.push_wf h.window.1 b, s.push_window_index h.window.2 b⟩
    sums := by
      simp only [State.push_adlerA, State.push_adlerB, adlerNextA_toNat, adlerNextB_toNat]
      exact ⟨Nat.mod_lt _ (by decide), Nat.mod_lt _ (by decide)⟩
    copy := fun hb hl => by
      obtain ⟨hh, hlen, hpos, hd⟩ := h.copy hb hl
      exact ⟨hh, hlen, hpos, hd.trans (by simp)⟩
    history := fun hb => by
      obtain ⟨hlen, hread⟩ := h.history hb
      exact ⟨by simpa using hlen, s.push_history h.window.1 hlen hread b⟩
    adler := fun hb => by
      obtain ⟨ha, hb'⟩ := h.adler hb
      rw [State.push_runOut (h.history hb).1, adlerSums_append]
      simp only [State.push_adlerA, State.push_adlerB, adlerNextA_toNat, adlerNextB_toNat, ha, hb', Nat.mod_add_mod,
        Nat.add_mod_mod, and_self] }

end Sys2Proof.Machine
end

section
/-! PROOFS. The invariant outside a run, at the end of the body, over a copy step and over the read of an element. -/

namespace Sys2Proof.Machine

variable {s t : State} {f : Format} {c : Cursor} {e : ErrCode}

theorem Phase.ne_of_busy {p : Phase} (h : p.busy = true) : p ≠ .done ∧ p ≠ .failed := by
  cases p <;> simp_all [Phase.busy]

/-- Outside a run only the memories, the sums, the result and the status are spoken of (R326). -/
theorem State.inv_of_not_busy (hb : s.phase.busy = false) (input : s.input.map Prod.fst = List.range s.inLen)
    (window : Mem.wf s.window ∧ ∀ x ∈ s.window, x.1 < Config.windowSize)
    (sums : s.adlerA.toNat < Config.adlerMod ∧ s.adlerB.toNat < Config.adlerMod)
    (err : s.err = .eNone ↔ s.phase ≠ .failed) (endPos : s.phase ≠ .done → s.endPos = 0) (mid : s.mid = .settled)
    (shown : s.shown = ⟨s.cur.inPos, s.cur.bitIdx, s.finalSeen⟩) : s.Inv := by
  have hn : ¬ s.phase.busy = true := by simp [hb]
  have hz : s.phase ≠ .zhdr := fun h => hn (by rw [h]; rfl)
  have ht : s.phase ≠ .ztrailer := fun h => hn (by rw [h]; rfl)
  exact
    { input, window, sums, err, endPos
      framing := fun h => absurd h (not_or.2 ⟨hz, ht⟩)
      place := fun _ => mid
      shown := fun _ => shown
      cursor := fun h => absurd h hn
      aligned := fun h => absurd h (not_or.2 ⟨hz, not_or.2 ⟨ht, fun h => hn h.1⟩⟩)
      raw := fun h => absurd h hn
      copy := fun h => absurd h hn
      tables := fun h => absurd h hn
      mid := fun h => absurd h hn
      history := fun h => absurd h hn
      adler := fun h => absurd h hn }

/-- A `raise` ends a run (R326). -/
theorem State.Inv.raise (h : s.Inv) (hb : s.phase.busy = true) (he : e ≠ .eNone) : (s.raise e).Inv :=
  State.inv_of_not_busy rfl h.input ⟨Mem.wf_nil, by simp⟩ h.sums (by simp [he])
    (fun _ => h.endPos (Phase.ne_of_busy hb).1) rfl rfl

theorem State.Inv.hardReset (h : s.Inv) : s.hardReset.Inv :=
  State.inv_of_not_busy rfl h.input ⟨Mem.wf_nil, by simp [State.reset]⟩
    ⟨by simp [State.reset, Config.adlerMod], by simp [State.reset, Config.adlerMod]⟩ (by simp [State.reset]) (fun _ => rfl)
    rfl rfl

/-- A run goes on from one phase to the next between engine steps and at a byte boundary (R268, R280). -/
theorem State.Inv.nextPhase (h : s.Inv) (hb : s.phase.busy = true) (hm : s.mid = .settled) (hc : s.cur.bitIdx = 0#3)
    {p : Phase} (hp : p.busy = true) (hz : p = .zhdr ∨ p = .ztrailer → s.mode = .zlib) :
    State.Inv { s with phase := p } :=
  { h with
    err := by simp [h.err.2 (Phase.ne_of_busy hb).2, (Phase.ne_of_busy hp).2]
    endPos := fun _ => h.endPos (Phase.ne_of_busy hb).1
    framing := hz
    place := fun _ => hm
    cursor := fun _ => h.cursor hb
    aligned := fun _ => hc
    raw := fun _ => h.raw hb
    copy := fun _ => h.copy hb
    tables := fun _ => h.tables hb
    mid := fun _ => h.mid hb
    history := fun _ => h.history hb
    adler := fun _ => h.adler hb }

/-- ALIGN between engine steps (R145). -/
theorem State.Inv.align (h : s.Inv) : (State.settle { s with cur := s.cur.align }).Inv :=
  { h with
    place := fun _ => rfl
    shown := fun _ => rfl
    cursor := fun _ hc => absurd rfl hc
    aligned := fun _ => rfl
    mid := fun _ => trivial }

/-- `END` (R204, R268): the run is done, or its trailer is next. -/
theorem State.Inv.finishBody (h : s.Inv) (hp : s.point = .bodyEnd) : s.finishBody.Inv := by
  obtain ⟨hbody, -, -⟩ := State.point_bodyEnd hp
  unfold State.finishBody
  split
  · have herr : s.err = .eNone := h.err.2 (by simp [hbody])
    exact State.inv_of_not_busy rfl h.input h.window h.sums (by simp [herr]) (by simp) rfl rfl
  next hm => exact h.align.nextPhase (by simp [hbody, Phase.busy]) rfl rfl rfl fun _ => hm

/-- The copy step (R252): one byte, and one less to copy. -/
theorem State.Inv.copyStep (h : s.Inv) (hp : s.point = .copy) (ht : s.copyStep = .next t) : t.Inv := by
  obtain ⟨b, -, rfl⟩ := State.copyStep_next.1 ht
  obtain ⟨-, -, -, hlen⟩ := State.point_copy hp
  exact
    { h.push b with
      place := fun _ => rfl
      shown := fun _ => rfl
      copy := fun hb _ => by
        obtain ⟨hh, hle, hpos, hd⟩ := (h.push b).copy hb hlen
        refine ⟨hh, ?_, hpos, hd⟩
        show (s.copyLen - 1#9).toNat ≤ 258
        have : s.copyLen.toNat ≤ 258 := hle
        bv_omega
      mid := fun _ => trivial }

/-! The temporaries at each place inside an engine step (R44). -/

theorem State.Inv.midOk_storedHdr (h : s.Inv) (hb : s.phase.busy = true) (hm : s.mid = .storedHdr) :
    s.bstate = .between ∧ s.cur.bitIdx = 0#3 := by
  simpa only [State.midOk, hm] using h.mid hb

theorem State.Inv.midOk_dynHdr (h : s.Inv) (hb : s.phase.busy = true) (hm : s.mid = .dynHdr) : s.bstate = .between := by
  simpa only [State.midOk, hm] using h.mid hb

theorem State.Inv.midOk_clLens (h : s.Inv) (hb : s.phase.busy = true) {hlit hdist : BitVec 5} {hclen : BitVec 4}
    (hm : s.mid = .clLens hlit hdist hclen) : s.bstate = .between := by
  simpa only [State.midOk, hm] using h.mid hb

theorem State.Inv.midOk_clSyms (h : s.Inv) (hb : s.phase.busy = true) {hlit hdist : BitVec 5} {tab : Table}
    {lens : List (BitVec 4)} (hm : s.mid = .clSyms hlit hdist tab lens) :
    s.bstate = .between ∧ Built 19 false tab ∧ lens.length < nlit hlit + ndist hdist := by
  simpa only [State.midOk, hm] using h.mid hb

theorem State.Inv.midOk_dist (h : s.Inv) (hb : s.phase.busy = true) {length : BitVec 9} (hm : s.mid = .dist length) :
    s.huffman ∧ s.copyLen = 0#9 ∧ 3 ≤ length.toNat ∧ length.toNat ≤ 258 := by
  simpa only [State.midOk, hm] using h.mid hb

/-! The read of an element. -/

/-- An element of a format has been read in a state that meets the invariant, and the cursor is past it. -/
structure State.Fetched (s : State) (f : Format) (c : Cursor) : Prop where
  inv : s.Inv
  due : s.point = .element f
  cursor : CursorOk s.input.read c
  aligned : f.wholeBytes = true → c.bitIdx = 0#3

/-- An element of whole bytes is due at a byte boundary (R73). -/
theorem State.Inv.aligned_of_wholeBytes (h : s.Inv) (hp : s.point = .element f) (hf : f.wholeBytes = true) :
    s.cur.bitIdx = 0#3 := by
  have hd := State.point_element hp
  have hb := State.busy_of_element hp
  cases f with
  | zhdr => exact h.aligned (.inl hd)
  | ztrailer => exact h.aligned (.inr (.inl hd))
  | rawByte => exact h.aligned (.inr (.inr ⟨hb, hd.2.2⟩))
  | storedHdr => exact (h.midOk_storedHdr hb hd.2).2
  | _ => cases hf

/-- Where the invariant asks for a byte boundary, only whole bytes are read (R73). -/
theorem State.Inv.wholeBytes_of_due (h : s.Inv) (hp : s.point = .element f)
    (ha : s.phase = .zhdr ∨ s.phase = .ztrailer ∨ s.phase.busy ∧ s.bstate = .stored) : f.wholeBytes = true := by
  have hd := State.point_element hp
  have hbusy := State.busy_of_element hp
  have hstored : s.phase = .body → s.bstate = .stored := fun hb => by simpa [hb, Phase.busy] using ha
  cases f with
  | zhdr | ztrailer | rawByte | storedHdr => rfl
  | blkHdr =>
    obtain ⟨hb, -, hbs, -⟩ := hd
    simp [hstored hb] at hbs
  | llSym =>
    obtain ⟨hb, -, hhuff, -⟩ := hd
    simp [State.huffman, hstored hb] at hhuff
  | dynHdr =>
    obtain ⟨hb, hm⟩ := hd
    simpa [hstored hb] using h.midOk_dynHdr hbusy hm
  | clLens =>
    obtain ⟨hb, hlit, hdist, hclen, hm⟩ := hd
    simpa [hstored hb] using h.midOk_clLens hbusy hm
  | clSym =>
    obtain ⟨hb, hlit, hdist, tab, lens, hm⟩ := hd
    simpa [hstored hb] using h.midOk_clSyms hbusy hm
  | dSym =>
    obtain ⟨hb, length, hm⟩ := hd
    simpa [State.huffman, hstored hb] using h.midOk_dist hbusy hm

theorem State.inByte_some {p : Nat} {b : Byte} (h : s.inByte p = some b) : s.input.read p = some b := by
  unfold State.inByte at h
  split at h
  · exact h
  · cases h

/-- A fetch moves the cursor past the element and keeps what the invariant asks of it. -/
theorem State.Inv.fetched (h : s.Inv) (hp : s.point = .element f) {i : Instr} (hf : s.fetch f = .elem i t) :
    ∃ c, t = { s with cur := c } ∧ s.Fetched f c := by
  obtain ⟨-, ctx, c, hctx, hdec, rfl⟩ := State.fetch_elem.1 hf
  have hfmt := State.ctx_format hctx
  have hal : f.wholeBytes = true → c.bitIdx = 0#3 := fun hw =>
    (decode_bitIdx (hfmt ▸ hw) hdec).trans (h.aligned_of_wholeBytes hp hw)
  refine ⟨c, rfl, h, hp, ?_, hal⟩
  by_cases hr : ctx = .rawByte
  · subst hr; subst hfmt
    exact fun hc => absurd (hal rfl) hc
  · exact (cursorSource_keeps_cursorOk fun _ _ => State.inByte_some).decode hr hdec (h.cursor (State.busy_of_element hp))

end Sys2Proof.Machine
end

section
/-! PROOFS. Every element keeps the invariant. -/

namespace Sys2Proof.Machine

variable {s t u : State} {f f' : Format} {c : Cursor} {e : ErrCode}

theorem clLengths_le (fields : List (BitVec 3)) : ∀ l ∈ clLengths fields, l ≤ Config.maxBits := by
  intro l hl
  obtain ⟨sym, -, rfl⟩ := List.mem_map.1 hl
  split
  next p hp => exact (Nat.le_of_lt_succ p.2.isLt).trans (by decide)
  · exact Nat.zero_le _

theorem zhdrError_ne {cmf flg : Byte} (h : zhdrError cmf flg = some e) : e ≠ .eNone := by
  rintro rfl
  simp [zhdrError, ite_eq_iff] at h

namespace State.Fetched

theorem busy (h : s.Fetched f c) : s.phase.busy = true := busy_of_element h.due

theorem dueAt (h : s.Fetched f c) : s.DueAt f := point_element h.due

/-- Inside an engine step the block is in phase `BODY` (R44). -/
theorem body (h : s.Fetched f c) {m : Mid} (hm : s.mid = m) (hne : m ≠ .settled) : s.phase = .body := by
  by_contra hp
  exact hne (hm.symm.trans (h.inv.place hp))

theorem raise (h : s.Fetched f c) (he : e ≠ .eNone) : (s.raise e).Inv :=
  h.inv.raise h.busy he

/-- Moving on to the byte boundary keeps what is known of the cursor (R145). -/
theorem align (h : s.Fetched f c) : s.Fetched f c.align :=
  { h with cursor := fun hc => absurd rfl hc, aligned := fun _ => rfl }

theorem push (h : s.Fetched f c) (b : Byte) : (s.push b).Fetched f c := { h with inv := h.inv.push b }

/-- The element ends its engine step and changes nothing but the cursor. -/
theorem settle (h : s.Fetched f c) : (State.settle { s with cur := c }).Inv :=
  { h.inv with
    place := fun _ => rfl
    shown := fun _ => rfl
    cursor := fun _ => h.cursor
    aligned := fun ha => h.aligned (h.inv.wholeBytes_of_due h.due ha)
    mid := fun _ => trivial }

/-- The element leaves its engine step unfinished. -/
theorem midway (h : s.Fetched f c) (hb : s.phase = .body) {m : Mid} (hm : m ≠ .settled) {fin : Bool}
    (hok : State.midOk { s with cur := c, mid := m }) : State.Inv { s with cur := c, finalSeen := fin, mid := m } :=
  { h.inv with
    place := fun hp => absurd hb hp
    shown := fun he => absurd he hm
    cursor := fun _ => h.cursor
    aligned := fun ha => h.aligned (h.inv.wholeBytes_of_due h.due ha)
    mid := fun _ => hok }

/-- Outside the two Huffman block states no copy is in progress (R30 (b)). -/
theorem no_copy (h : s.Fetched f c) (hb : ¬ s.huffman) : s.copyLen = 0#9 := by
  by_contra hl
  exact hb (h.inv.copy h.busy hl).1

/-- A meaning with one effect keeps the invariant if the effect does so where its format is due. -/
theorem of_whenDue (h : s.Fetched f c) (ht : State.whenDue { s with cur := c } f' (.next u) = .next t)
    (hu : s.Fetched f' c → u.Inv) : t.Inv := by
  obtain ⟨hp, rfl⟩ : s.point = .element f' ∧ t = u := by
    simpa only [whenDue_next, next_eq_next, point_cur] using ht
  obtain rfl : f = f' := by simpa [hp] using h.due.symm
  exact hu h

/-- The end of the code-length list (R181 to R184): BUILD has made both tables from lengths of 4 bits. -/
theorem finishLens (h : s.Fetched f c) (hbs : s.bstate = .between) (hlit hdist : BitVec 5) (lens : List (BitVec 4)) :
    (State.finishLens { s with cur := c } hlit hdist lens).Inv := by
  have hcopy : s.copyLen = 0#9 := h.no_copy (by simp [hbs])
  obtain ⟨e, h0, he⟩ | ⟨ll, d, hlen, hll, hd, h0⟩ := finishLens_cases { s with cur := c } hlit hdist lens <;> rw [h0]
  · exact h.raise (by rintro rfl; simp at he)
  · have hmax : ∀ l ∈ lens.map BitVec.toNat, l ≤ Config.maxBits := by
      intro l hl
      obtain ⟨x, -, rfl⟩ := List.mem_map.1 hl
      exact Nat.le_of_lt_succ x.isLt
    have hnlit : nlit hlit ≤ 288 := by unfold nlit; omega
    have hndist : ndist hdist ≤ 32 := by unfold ndist; omega
    exact
      { h.settle with
        aligned := by simpa using fun hp => h.aligned (h.inv.wholeBytes_of_due h.due (hp.imp_right .inl))
        raw := by simp
        copy := fun _ hl => absurd hcopy hl
        tables := fun _ _ => ⟨ll, d, rfl, rfl,
          ⟨_, by simp; omega, fun l hl => hmax l (List.mem_of_mem_take hl), hll⟩,
          ⟨_, by simp; omega, fun l hl => hmax l (List.mem_of_mem_drop hl), hd⟩⟩ }

/-- A code-length symbol (R177 to R184). -/
theorem codeLengths (h : s.Fetched f c) {produce : List (BitVec 4) → Option (List (BitVec 4))}
    (ht : State.codeLengths { s with cur := c } produce = .next t) : t.Inv := by
  obtain ⟨hlit, hdist, tab, lens, hm, -, ht⟩ := codeLengths_next.1 ht
  obtain ⟨hbs, htab, -⟩ := h.inv.midOk_clSyms h.busy hm
  obtain ⟨-, rfl⟩ | ⟨new, -, ⟨hlt, rfl⟩ | ⟨-, rfl⟩⟩ := ht
  · exact h.raise (by simp)
  · exact h.midway (h.body hm (by simp)) (by simp) ⟨hbs, htab, hlt⟩
  · exact h.finishLens hbs hlit hdist (lens ++ new)

/-- A length symbol (R214) of a length of 3 to 258. -/
theorem lengthSymbol (h : s.Fetched f c) {length : BitVec 9} (hl : 3 ≤ length.toNat ∧ length.toNat ≤ 258)
    (ht : State.lengthSymbol { s with cur := c } length = .next t) : t.Inv :=
  h.of_whenDue ht fun h => by
    obtain ⟨hb, -, hhuff, hcopy⟩ := h.dueAt
    exact h.midway hb (by simp) ⟨hhuff, hcopy, hl⟩

/-- A distance symbol (R223, R239) of a distance of at most 32768. -/
theorem distanceSymbol (h : s.Fetched f c) {distance : BitVec 16} (hd : distance.toNat ≤ Config.maxDist)
    (ht : State.distanceSymbol { s with cur := c } distance = .next t) : t.Inv := by
  obtain ⟨length, hm, -, rfl⟩ := distanceSymbol_next.1 ht
  obtain ⟨hhuff, -, -, hlen⟩ := h.inv.midOk_dist h.busy hm
  obtain ⟨-, h0⟩ | ⟨-, hd0, hle, h0⟩ := startCopy_cases { s with cur := c } length distance <;> rw [h0]
  · exact h.raise (by simp)
  · exact
      { h.settle with
        copy := fun _ _ =>
          ⟨hhuff, hlen, Nat.pos_of_ne_zero fun h0 => hd0 (BitVec.eq_of_toNat_eq h0), Nat.le_min.2 ⟨hle, hd⟩⟩ }

theorem blkStored (h : s.Fetched f c) {bfinal : Bool} (ht : execBlkStored bfinal { s with cur := c } = .next t) : t.Inv :=
  h.of_whenDue ht fun h => by
    obtain ⟨hb, -, hbs, -⟩ := h.dueAt
    exact h.align.midway hb (by simp) ⟨hbs, rfl⟩

theorem blkFixed (h : s.Fetched f c) {bfinal : Bool} (ht : execBlkFixed bfinal { s with cur := c } = .next t) : t.Inv :=
  h.of_whenDue ht fun h => by
    obtain ⟨hb, -, hbs, -⟩ := h.dueAt
    have hcopy : s.copyLen = 0#9 := h.no_copy (by simp [hbs])
    exact
      { h.settle with
        shown := fun _ => rfl
        aligned := by simp [hb]
        raw := by simp
        copy := fun _ hl => absurd hcopy hl
        tables := fun _ _ => ⟨_, _, rfl, rfl, fixedLL_built, fixedD_built⟩ }

theorem blkDynamic (h : s.Fetched f c) {bfinal : Bool} (ht : execBlkDynamic bfinal { s with cur := c } = .next t) :
    t.Inv :=
  h.of_whenDue ht fun h => by
    obtain ⟨hb, -, hbs, -⟩ := h.dueAt
    exact h.midway hb (by simp) hbs

theorem storedHdr (h : s.Fetched f c) {len nlen : BitVec 16} (ht : execStoredHdr len nlen { s with cur := c } = .next t) :
    t.Inv :=
  h.of_whenDue ht fun h => by
    split
    · exact h.raise (by simp)
    · obtain ⟨-, hm⟩ := h.dueAt
      obtain ⟨hbs, -⟩ := h.inv.midOk_storedHdr h.busy hm
      have hcopy : s.copyLen = 0#9 := h.no_copy (by simp [hbs])
      exact
        { h.settle with
          aligned := fun _ => h.aligned rfl
          raw := by by_cases hl : len = 0#16 <;> simp [hl]
          copy := fun _ hl => absurd hcopy hl
          tables := by by_cases hl : len = 0#16 <;> simp [hl] }

theorem rawByte (h : s.Fetched f c) {b : Byte} (ht : execRawByte b { s with cur := c } = .next t) : t.Inv :=
  h.of_whenDue ht fun h => by
    obtain ⟨-, -, hbs⟩ := h.dueAt
    have hcopy : s.copyLen = 0#9 := h.no_copy (by simp [hbs])
    exact
      { (h.push b).settle with
        aligned := fun _ => h.aligned rfl
        raw := by by_cases hl : s.rawRemaining - 1#16 = 0#16 <;> simp [hl]
        copy := fun _ hl => absurd hcopy hl
        tables := by by_cases hl : s.rawRemaining - 1#16 = 0#16 <;> simp [hl, hbs] }

/-- CLLENS (R175, R176): the code-length table is built from 19 lengths of 3 bits. -/
theorem clLens (h : s.Fetched f c) {lens : List (BitVec 3)} (ht : execClLens lens { s with cur := c } = .next t) :
    t.Inv := by
  obtain ⟨hlit, hdist, hclen, hm, -, -, ⟨e, hbuild, rfl⟩ | ⟨tab, hbuild, rfl⟩⟩ := execClLens_next.1 ht
  · exact h.raise (by obtain rfl | rfl := build_error hbuild <;> simp)
  · exact h.midway (h.body hm (by simp)) (by simp)
      ⟨h.inv.midOk_clLens h.busy hm, ⟨_, by simp [clLengths], clLengths_le lens, hbuild⟩, by simp [nlit]⟩

theorem lit (h : s.Fetched f c) {b : Byte} (ht : execLit b { s with cur := c } = .next t) : t.Inv :=
  h.of_whenDue ht fun h => (h.push b).settle

theorem eob (h : s.Fetched f c) (ht : execEob { s with cur := c } = .next t) : t.Inv :=
  h.of_whenDue ht fun h => by
    obtain ⟨hb, -, -, hcopy⟩ := h.dueAt
    exact
      { h.settle with
        aligned := by simp [hb]
        raw := by simp
        copy := fun _ hl => absurd hcopy hl
        tables := by simp }

theorem zhdr (h : s.Fetched f c) {cmf flg : Byte} (ht : execZhdr cmf flg { s with cur := c } = .next t) : t.Inv :=
  h.of_whenDue ht fun h => by
    have hz : s.phase = .zhdr := h.dueAt
    split
    next e he => exact h.raise (zhdrError_ne he)
    · exact { h.settle.nextPhase h.busy rfl (h.aligned rfl) (p := .body) rfl (by simp) with }

theorem ztrailer (h : s.Fetched f c) {expected : BitVec 32}
    (ht : execZtrailer expected { s with cur := c } = .next t) : t.Inv :=
  h.of_whenDue ht fun h => by
    have hz : s.phase = .ztrailer := h.dueAt
    split
    · exact h.raise (by simp)
    · refine State.inv_of_not_busy rfl h.inv.input h.inv.window h.inv.sums ?_ (by simp) rfl rfl
      simpa [hz] using h.inv.err

end State.Fetched

theorem lengthOf_range {w base : Nat} (hb : 3 ≤ base ∧ base + 2 ^ w ≤ 259) (x : BitVec w) :
    3 ≤ (lengthOf base x).toNat ∧ (lengthOf base x).toNat ≤ 258 := by
  have hx := x.isLt
  rw [lengthOf, BitVec.toNat_ofNat, Nat.mod_eq_of_lt (by omega)]
  omega

theorem distanceOf_le {w base : Nat} (hb : base + 2 ^ w ≤ 32769) (x : BitVec w) :
    (distanceOf base x).toNat ≤ Config.maxDist := by
  have hx := x.isLt
  rw [distanceOf, BitVec.toNat_ofNat, Nat.mod_eq_of_lt (by omega), Config.maxDist]
  omega

/-- Every element keeps the invariant. -/
theorem exec_inv (h : s.Fetched f c) {i : Instr} (ht : exec i { s with cur := c } = .next t) : t.Inv := by
  cases i with
  | blkStored => exact h.blkStored ht
  | blkFixed => exact h.blkFixed ht
  | blkDynamic => exact h.blkDynamic ht
  | blkReserved | llInvalid | distInvalid => exact h.of_whenDue ht fun h => h.raise (by simp)
  | storedHdr => exact h.storedHdr ht
  | rawByte => exact h.rawByte ht
  | dynHdr =>
    exact h.of_whenDue ht fun h => h.midway h.dueAt.1 (by simp) (h.inv.midOk_dynHdr h.busy h.dueAt.2)
  | clLens => exact h.clLens ht
  | clLen | clCopy | clZero3 | clZero11 =>
    simp only [exec, execClLen, execClCopy, execClZero3, execClZero11] at ht
    exact h.codeLengths ht
  | lit => exact h.lit ht
  | eob => exact h.eob ht
  | len257 | len258 | len259 | len260 | len261 | len262 | len263 | len264 | len285 => exact h.lengthSymbol (by decide) ht
  | len265 | len266 | len267 | len268 | len269 | len270 | len271 | len272 | len273 | len274 | len275 | len276 | len277
  | len278 | len279 | len280 | len281 | len282 | len283 | len284 =>
    exact h.lengthSymbol (lengthOf_range (by decide) _) ht
  | dist0 | dist1 | dist2 | dist3 => exact h.distanceSymbol (by decide) ht
  | dist4 | dist5 | dist6 | dist7 | dist8 | dist9 | dist10 | dist11 | dist12 | dist13 | dist14 | dist15 | dist16 | dist17
  | dist18 | dist19 | dist20 | dist21 | dist22 | dist23 | dist24 | dist25 | dist26 | dist27 | dist28 | dist29 =>
    exact h.distanceSymbol (distanceOf_le (by decide) _) ht
  | zhdr => exact h.zhdr ht
  | ztrailer => exact h.ztrailer ht

end Sys2Proof.Machine
end

section
/-! PROOFS. The host's operations keep the invariant, and with the engine's steps every step does, settling O50. -/

namespace Sys2Proof.Machine

variable {s t : State} {m : Mem} {n p : Nat} {b : Byte}

theorem Mem.mem_of_read (h : m.read p = some b) : (p, b) ∈ m := by
  induction m with
  | nil => cases h
  | cons x m ih =>
    obtain ⟨a, v⟩ := x
    unfold Mem.read at h
    split at h
    next ha => cases h; cases ha; exact .head _
    · split at h
      · cases h
      · exact .tail _ (ih h)

/-- A write above every address adds a last cell. -/
theorem Mem.write_above (h : ∀ x ∈ m, x.1 < p) : m.write p b = m ++ [(p, b)] := by
  induction m with
  | nil => rfl
  | cons x m ih =>
    obtain ⟨a, v⟩ := x
    have ha : a < p := h (a, v) (.head _)
    rw [Mem.write, if_neg (by omega), if_neg (by omega), ih fun x hx => h x (.tail _ hx), List.cons_append]

theorem Mem.addr_lt (h : m.map Prod.fst = List.range n) {x : Host.Cell} (hx : x ∈ m) : x.1 < n := by
  rw [← List.mem_range, ← h]
  exact List.mem_map_of_mem hx

theorem Mem.wf_of_range (h : m.map Prod.fst = List.range n) : m.wf :=
  List.pairwise_map.1 (h ▸ List.pairwise_lt_range)

/-- Delivered bytes follow the ones delivered before (R60). -/
theorem Mem.writeBytes_range (h : m.map Prod.fst = List.range n) (bytes : List Byte) :
    (m.writeBytes n bytes).map Prod.fst = List.range (n + bytes.length) := by
  induction bytes generalizing m n with
  | nil => exact h
  | cons b bytes ih =>
    have hw : (m.write n b).map Prod.fst = List.range (n + 1) := by
      rw [Mem.write_above fun x hx => Mem.addr_lt h hx, List.map_append, h, List.range_succ, List.map_singleton]
    rw [Mem.writeBytes, ih hw, List.length_cons, Nat.add_assoc, Nat.add_comm 1]

namespace State

theorem Inv.deliver (h : s.Inv) (bytes : List Byte) :
    State.Inv { s with input := s.input.writeBytes s.inLen bytes, inLen := s.inLen + bytes.length } :=
  { h with
    input := Mem.writeBytes_range h.input bytes
    cursor := fun hb hc => by
      obtain ⟨hpos, hread⟩ := h.cursor hb hc
      have hlt : s.cur.inPos - 1 < s.inLen := Mem.addr_lt h.input (Mem.mem_of_read hread)
      exact ⟨hpos, (Mem.read_writeBytes_other _ (Mem.wf_of_range h.input) _ _ (.inl hlt)).trans hread⟩ }

/-- The host provides another input or another sink between runs only (R354). -/
theorem Inv.of_not_busy (h : s.Inv) (hb : ¬ s.phase.busy = true) {input : Mem} {inLen : Nat} {inEnded : Bool}
    {out : List Byte} (hin : input.map Prod.fst = List.range inLen) :
    State.Inv { s with input := input, inLen := inLen, inEnded := inEnded, out := out } :=
  have hm : s.mid = .settled := h.place fun hp => hb (by rw [hp]; rfl)
  inv_of_not_busy (by simpa using hb) hin h.window h.sums h.err h.endPos hm (h.shown hm)

/-- START (R265, R266): a run that has written nothing yet. -/
theorem Inv.start (h : s.Inv) : s.start.Inv := by
  cases hb : s.phase.busy with
  | true => rwa [start_busy hb]
  | false =>
    rw [start_idle hb]
    cases hm : s.ctrlMode <;>
    exact
      { input := h.input
        window := h.window
        sums := by simp [Config.adlerMod]
        err := by simp
        endPos := fun _ => rfl
        framing := by simp
        place := fun _ => rfl
        shown := fun _ => rfl
        cursor := fun _ hc => absurd rfl hc
        aligned := fun _ => rfl
        raw := by simp
        copy := fun _ hl => absurd rfl hl
        tables := by simp
        mid := fun _ => trivial
        history := by simp
        adler := by simp [runOut, adlerSums, Config.adlerMod] }

/-- A write of CTRL (R34): MODE, then START if bit 0 is set (log 16). -/
theorem writeCsr_ctrl (s : State) (v : Nat) :
    s.writeCsr 0 v =
      .next (if v.testBit 0 then State.start { s with ctrlMode := if v.testBit 1 then .zlib else .raw }
        else { s with ctrlMode := if v.testBit 1 then .zlib else .raw }) := by
  simp [State.writeCsr, Nat.testBit_eq_decide_div_mod_eq]

theorem writeCsr_startOff (s : State) (v : Nat) : s.writeCsr 1 v = .next { s with startOff := v } := rfl

theorem writeCsr_readOnly (s : State) {n : Nat} (v : Nat) (h2 : 2 ≤ n) (h7 : n ≤ 7) : s.writeCsr n v = .next s := by
  rw [State.writeCsr, if_neg (by omega), if_neg (by omega), if_pos (by omega)]

theorem writeCsr_absent (s : State) {n : Nat} (v : Nat) (h : 8 ≤ n) : s.writeCsr n v = .refused .noSuchCsr := by
  rw [State.writeCsr, if_neg (by omega), if_neg (by omega), if_neg (by omega)]

theorem Inv.writeCsr (h : s.Inv) {n v : Nat} (ht : s.writeCsr n v = .next t) : t.Inv := by
  obtain rfl | rfl | ⟨h2, h7⟩ | h8 : n = 0 ∨ n = 1 ∨ (2 ≤ n ∧ n ≤ 7) ∨ 8 ≤ n := by omega
  · have h1 : State.Inv { s with ctrlMode := if v.testBit 1 then .zlib else .raw } := { h with }
    obtain rfl := next_eq_next.1 ((s.writeCsr_ctrl v).symm.trans ht)
    split
    · exact h1.start
    · exact h1
  · cases ht
    exact { h with }
  · cases (s.writeCsr_readOnly v h2 h7).symm.trans ht
    exact h
  · cases (s.writeCsr_absent v h8).symm.trans ht

/-- A host operation with a precondition (R79, R82, R358). -/
theorem guarded_next {p : Prop} [Decidable p] {r : Refusal} {u : State} :
    ((if p then .refused r else .next u : Host.Outcome State Fault Refusal) = .next t) ↔ ¬ p ∧ t = u := by
  split <;> simp [*, -Host.Outcome.next.injEq]

/-- The host's operations keep the invariant. -/
theorem Inv.hostAct (h : s.Inv) {op : HostOp} (ht : s.hostAct op = .next t) : t.Inv := by
  cases op with
  | pass => cases ht; exact h
  | reset => cases ht; exact h.hardReset
  | writeCsr n v => exact h.writeCsr ht
  | newInput =>
    obtain ⟨hb, rfl⟩ := guarded_next.1 ht
    exact h.of_not_busy hb rfl
  | deliver bytes =>
    obtain ⟨-, rfl⟩ := guarded_next.1 ht
    exact h.deliver bytes
  | endInput | sink => cases ht; exact { h with }
  | newSink =>
    obtain ⟨hb, rfl⟩ := guarded_next.1 ht
    exact h.of_not_busy hb h.input

/-- The engine's steps keep the invariant. -/
theorem Inv.engine (h : s.Inv) (ht : s.engine = .next t) : t.Inv := by
  obtain ⟨-, rfl⟩ | ⟨hp, rfl⟩ | ⟨-, -, rfl⟩ | ⟨hp, -, hcopy⟩ | ⟨f, hp, hf⟩ := engine_next.1 ht
  · exact h
  · exact h.finishBody hp
  · exact h
  · exact h.copyStep hp hcopy
  · obtain ⟨-, rfl⟩ | ⟨e, herr, rfl⟩ | ⟨i, s1, hfetch, ⟨-, -, rfl⟩ | ⟨-, hexec⟩⟩ := hf
    · exact h
    · refine h.raise (busy_of_element hp) ?_
      obtain ⟨rfl, -⟩ | ⟨rfl, -⟩ := fetch_error herr <;> simp
    · exact h
    · obtain ⟨c, rfl, hc⟩ := h.fetched hp hfetch
      exact exec_inv hc hexec

end State

/-- A step is one of the engine or one of the host's operations, with the operation taken off the list (log 2). -/
theorem step_cases (h : step s = .next t) :
    ∃ ops, State.engine { s with hostOps := ops } = .next t ∨
      ∃ op, State.hostAct { s with hostOps := ops } op = .next t := by
  unfold step at h
  split at h
  next hops => exact ⟨s.hostOps, .inl h⟩
  next ops _ => exact ⟨ops, .inl h⟩
  next op ops _ _ => exact ⟨ops, .inr ⟨op, h⟩⟩

/-- Settles O50, by the invariant of each element, of the copy step, of the end of the body and of each host operation. -/
theorem everyStepKeepsTheInvariant : Obligations.EveryStepKeepsTheInvariant := by
  intro s t h ht
  obtain ⟨ops, hstep⟩ := step_cases ht
  have hops : State.Inv { s with hostOps := ops } := { h with }
  obtain hengine | ⟨op, hhost⟩ := hstep
  · exact hops.engine hengine
  · exact hops.hostAct hhost

end Sys2Proof.Machine
end

section
/-! PROOFS. The CSRs (10_state.md R34 to R41), settling O3, O4 and O5. -/

namespace Sys2Proof.Machine

variable {s : State}

theorem step_writeCsr {n v : Nat} {ops : List HostOp} (h : s.hostOps = .writeCsr n v :: ops) :
    step s = State.writeCsr { s with hostOps := ops } n v := by
  simp only [step, h, State.hostAct]

/-- Settles O3, by what a write of each CSR does. -/
theorem csrWritesActAsTheirRegisters : Obligations.CsrWritesActAsTheirRegisters := by
  intro s n v ops h m
  rw [step_writeCsr h]
  refine ⟨?_, ?_, ?_, ?_, fun h2 h7 => State.writeCsr_readOnly _ v h2 h7, State.writeCsr_absent _ v⟩
  · rintro rfl h0
    simp [State.writeCsr_ctrl, h0, m]
  · rintro rfl h0
    simp [State.writeCsr_ctrl, h0, m]
  · rintro rfl hb
    rw [State.writeCsr_ctrl, State.start_busy (s := { s with hostOps := ops, ctrlMode := m }) hb, ite_self]
  · rintro rfl
    exact State.writeCsr_startOff _ v

theorem Phase.busy_eq (p : Phase) : p.busy = decide (p = .zhdr ∨ p = .body ∨ p = .ztrailer) := by
  cases p <;> rfl

theorem Phase.finished_eq (p : Phase) : p.finished = decide (p = .done ∨ p = .failed) := by
  cases p <;> rfl

/-- Where the fields of STATUS stand in its word (R36). -/
theorem status_layout (bitIdx : BitVec 3) (final : Bool) (bs : BitVec 2) (err : BitVec 4) (ok finished busy : Bool) :
    let w := 0#18 ++ bitIdx ++ BitVec.ofBool final ++ bs ++ err ++ 0#1 ++ BitVec.ofBool ok ++ BitVec.ofBool finished
      ++ BitVec.ofBool busy
    (w.getLsbD 0 = busy ∧ w.getLsbD 1 = finished ∧ w.getLsbD 2 = ok ∧ w.getLsbD 3 = false) ∧
    (w.extractLsb' 4 4 = err ∧ w.extractLsb' 8 2 = bs ∧ w.getLsbD 10 = final ∧ w.extractLsb' 11 3 = bitIdx ∧
      w.extractLsb' 14 18 = 0#18) := by
  simp [-Nat.reduceAdd, -BitVec.getLsbD_eq_getElem, BitVec.getLsbD_append, BitVec.extractLsb'_append_eq_of_le,
    BitVec.extractLsb'_append_eq_of_add_le]

/-- Settles O4, by the layout of STATUS; the codes are those of the model's two functions. -/
theorem statusShowsItsFields : Obligations.StatusShowsItsFields := by
  intro s
  obtain ⟨⟨hbusy, hfinished, hok, h3⟩, herr, hbs, hfinal, hidx, hzero⟩ :=
    status_layout s.shown.bitIdx s.shown.finalSeen (bstateCode s.bstate)
      (if s.phase = .failed then errCode s.err else 0#4) (s.phase == .done) s.phase.finished s.phase.busy
  exact ⟨hbusy.trans s.phase.busy_eq, hfinished.trans s.phase.finished_eq, hok.trans (beq_eq_decide _ _), h3, herr, hbs,
    hfinal, hidx, hzero, rfl, rfl, rfl, rfl, rfl, rfl, rfl, rfl, rfl, rfl, rfl, rfl, rfl, rfl, rfl, rfl⟩

theorem append_toNat {m n : Nat} (x : BitVec m) (y : BitVec n) : (x ++ y).toNat = x.toNat * 2 ^ n + y.toNat := by
  rw [BitVec.toNat_append, ← Nat.shiftLeft_add_eq_or_of_lt y.isLt, Nat.shiftLeft_eq]

theorem State.readCsr_absent (s : State) {n : Nat} (h : 8 ≤ n) : s.readCsr n = none := by
  obtain ⟨k, rfl⟩ := Nat.exists_eq_add_of_le' h
  rfl

/-- Settles O5: each answer is its register by definition, CSR 5 and 7 as the number two registers make side by side. -/
theorem csrReadsGiveTheirRegisters : Obligations.CsrReadsGiveTheirRegisters := by
  intro s
  refine ⟨?_, rfl, rfl, rfl, rfl, congrArg some (append_toNat s.adlerB s.adlerA), rfl,
    congrArg some (append_toNat s.flg s.cmf), fun n => s.readCsr_absent⟩
  cases h : s.ctrlMode <;> simp [State.readCsr, h]

end Sys2Proof.Machine
end

section
/-! PROOFS. Two sources that read alike as far as a read goes: every read of an element answers the same from both
(40_bitstream_reader.md R140, R141, R143). -/

namespace Sys2Proof

open Machine

variable {σ : Type} {src src' : Source σ} {P : σ → Prop} {s s' : σ} {i : Instr}

/-- Whatever bit or byte `src` takes to a place in `P`, it took from a place in `P`, and `src'` takes it too. -/
structure Machine.Source.AgreeOn (src src' : Source σ) (P : σ → Prop) : Prop where
  bit  : ∀ {s b s'}, src.bit s = some (b, s') → P s' → P s ∧ src'.bit s = some (b, s')
  byte : ∀ {s b s'}, src.byte s = some (b, s') → P s' → P s ∧ src'.byte s = some (b, s')

namespace Machine.Source.AgreeOn

theorem eatBits (h : src.AgreeOn src' P) {n v : Nat} (hr : Machine.eatBits src n s = some (v, s')) (hs : P s') :
    P s ∧ Machine.eatBits src' n s = some (v, s') := by
  induction n generalizing s v with
  | zero => cases hr; exact ⟨hs, rfl⟩
  | succ n ih =>
    simp only [eatBits_succ, Option.bind_eq_some_iff, Option.map_eq_some_iff, Prod.mk.injEq] at hr ⊢
    obtain ⟨⟨b, s1⟩, hbit, ⟨w, s2⟩, hrest, hv, rfl⟩ := hr
    obtain ⟨hs1, hrest'⟩ := ih hrest
    obtain ⟨hs0, hbit'⟩ := h.bit hbit hs1
    exact ⟨hs0, _, hbit', _, hrest', hv, rfl⟩

theorem eatFields (h : src.AgreeOn src' P) {n k : Nat} {vs : List Nat}
    (hr : Machine.eatFields src n k s = some (vs, s')) (hs : P s') :
    P s ∧ Machine.eatFields src' n k s = some (vs, s') := by
  induction k generalizing s vs with
  | zero => cases hr; exact ⟨hs, rfl⟩
  | succ k ih =>
    unfold Machine.eatFields at hr
    split at hr
    · cases hr
    next hfield =>
      split at hr
      · cases hr
      next hrest =>
        cases hr
        obtain ⟨hs1, hrest'⟩ := ih hrest
        obtain ⟨hs0, hfield'⟩ := h.eatBits hfield hs1
        exact ⟨hs0, by simp only [Machine.eatFields, hfield', hrest']⟩

theorem walk (h : src.AgreeOn src' P) {t : Table} {fuel len code sym : Nat}
    (hr : Machine.walk src t fuel len code s = some (sym, s')) (hs : P s') :
    P s ∧ Machine.walk src' t fuel len code s = some (sym, s') := by
  induction fuel generalizing len code s with
  | zero => cases hr
  | succ fuel ih =>
    unfold Machine.walk at hr
    split at hr
    · cases hr
    next hbit =>
      split at hr
      next hfound =>
        cases hr
        obtain ⟨hs0, hbit'⟩ := h.bit hbit hs
        exact ⟨hs0, by simp only [Machine.walk, hbit', hfound]⟩
      next hnone =>
        obtain ⟨hs1, hrest'⟩ := ih hr
        obtain ⟨hs0, hbit'⟩ := h.bit hbit hs1
        exact ⟨hs0, by simp only [Machine.walk, hbit', hnone, hrest']⟩

theorem decodeCoded (h : src.AgreeOn src' P) {t : Table} {extra : Nat → Nat} {instr : Nat → Nat → Option Instr}
    (hr : Sys2Proof.decodeCoded src t extra instr s = .elem i s') (hs : P s') :
    Sys2Proof.decodeCoded src' t extra instr s = .elem i s' := by
  obtain ⟨hne, sym, s1, hsym, x, hx, hi⟩ := decodeCoded_elem.1 hr
  obtain ⟨hs1, hx'⟩ := h.eatBits hx hs
  exact decodeCoded_elem.2 ⟨hne, sym, s1, (h.walk hsym hs1).2, x, hx', hi⟩

/-- An element that ends in `P` is read from the other source too. -/
theorem decode (h : src.AgreeOn src' P) {c : Ctx} (hr : Sys2Proof.decode src c s = .elem i s') (hs : P s') :
    Sys2Proof.decode src' c s = .elem i s' := by
  cases c with
  | zhdr =>
    obtain ⟨_, s1, h1, _, h2, hi⟩ := readZhdr_some.1 (Decoded.ofOption_elem.1 hr)
    obtain ⟨hs1, h2'⟩ := h.eatBits h2 hs
    exact Decoded.ofOption_elem.2 (readZhdr_some.2 ⟨_, s1, (h.eatBits h1 hs1).2, _, h2', hi⟩)
  | blkHdr =>
    obtain ⟨_, s1, h1, _, h2, hi⟩ := readBlkHdr_some.1 (Decoded.ofOption_elem.1 hr)
    obtain ⟨hs1, h2'⟩ := h.eatBits h2 hs
    exact Decoded.ofOption_elem.2 (readBlkHdr_some.2 ⟨_, s1, (h.eatBits h1 hs1).2, _, h2', hi⟩)
  | storedHdr =>
    obtain ⟨_, s1, h1, _, h2, hi⟩ := readStoredHdr_some.1 (Decoded.ofOption_elem.1 hr)
    obtain ⟨hs1, h2'⟩ := h.eatBits h2 hs
    exact Decoded.ofOption_elem.2 (readStoredHdr_some.2 ⟨_, s1, (h.eatBits h1 hs1).2, _, h2', hi⟩)
  | dynHdr =>
    obtain ⟨_, s1, h1, _, s2, h2, _, h3, hi⟩ := readDynHdr_some.1 (Decoded.ofOption_elem.1 hr)
    obtain ⟨hs2, h3'⟩ := h.eatBits h3 hs
    obtain ⟨hs1, h2'⟩ := h.eatBits h2 hs2
    exact Decoded.ofOption_elem.2 (readDynHdr_some.2 ⟨_, s1, (h.eatBits h1 hs1).2, _, s2, h2', _, h3', hi⟩)
  | clLens n =>
    obtain ⟨_, h1, hi⟩ := readClLens_some.1 (Decoded.ofOption_elem.1 hr)
    exact Decoded.ofOption_elem.2 (readClLens_some.2 ⟨_, (h.eatFields h1 hs).2, hi⟩)
  | rawByte =>
    obtain ⟨_, h1, hi⟩ := readRawByte_some.1 (Decoded.ofOption_elem.1 hr)
    exact Decoded.ofOption_elem.2 (readRawByte_some.2 ⟨_, (h.byte h1 hs).2, hi⟩)
  | ztrailer =>
    obtain ⟨_, h1, hi⟩ := readZtrailer_some.1 (Decoded.ofOption_elem.1 hr)
    exact Decoded.ofOption_elem.2 (readZtrailer_some.2 ⟨_, (h.eatBits h1 hs).2, hi⟩)
  | clSym | llSym | dSym => exact h.decodeCoded hr hs

end Machine.Source.AgreeOn

/-- A raw byte is the one at `in_pos` (R143). -/
theorem Machine.nextRaw_some {fetch : Nat → Option Byte} {c c' : Cursor} {b : Byte} :
    nextRaw fetch c = some (b, c') ↔ fetch c.inPos = some b ∧ c' = { c with inPos := c.inPos + 1 } := by
  unfold nextRaw
  cases fetch c.inPos <;> simp [eq_comm]

/-- Two inputs with the same bytes before `k` read alike as long as the cursor does not pass `k`: a fetch takes the byte at
`in_pos` and leaves `in_pos` after it (R140, R143). -/
theorem Machine.cursorSource_agreeOn {fetch fetch' : Nat → Option Byte} {k : Nat} (h : ∀ p < k, fetch' p = fetch p) :
    (cursorSource fetch).AgreeOn (cursorSource fetch') (fun c => c.inPos ≤ k) where
  bit := by
    rintro ⟨p, j, byte⟩ b c' hbit hc
    by_cases hj : j = 0#3
    · subst hj
      obtain ⟨byte', hf, he⟩ := Option.map_eq_some_iff.1 ((nextBit_fetch fetch p byte).symm.trans hbit)
      cases he
      have hp : p < k := hc
      exact ⟨hp.le, (nextBit_fetch fetch' p byte).trans (by rw [h p hp, hf]; rfl)⟩
    · cases (nextBit_buffered fetch _ hj).symm.trans hbit
      exact ⟨hc, nextBit_buffered fetch' _ hj⟩
  byte := by
    rintro ⟨p, j, byte⟩ b c' hbyte hc
    obtain ⟨hf, rfl⟩ := nextRaw_some.1 hbyte
    have hp : p < k := hc
    exact ⟨hp.le, nextRaw_some.2 ⟨(h p hp).trans hf, rfl⟩⟩

end Sys2Proof
end

section
/-! PROOFS. Past its fetch a step looks at no input (20_memory.md R61, R62), settling O54. -/

namespace Sys2Proof.Machine

variable {s t : State} {m : Mem} {n : Nat} {f : Format}

/-- The state with another input, of which `n` bytes are delivered. -/
def State.withInput (s : State) (m : Mem) (n : Nat) : State := { s with input := m, inLen := n }

/-- An action that does not look at `IN`: with any other input it answers the same state, but for that input; and where the run
does not fail, `in_pos` keeps its value. -/
def InputBlind (act : State → Host.Outcome State Fault Refusal) : Prop :=
  ∀ ⦃s t⦄, act s = .next t →
    (t.phase ≠ .failed → t.cur.inPos = s.cur.inPos) ∧ ∀ m n, act (s.withInput m n) = .next (t.withInput m n)

namespace InputBlind

/-- An action that always answers a next state. Where that is a plain update of the state, `rfl` shows both halves. -/
theorem of_next {g : State → State}
    (hpos : ∀ s, (g s).phase ≠ .failed → (g s).cur.inPos = s.cur.inPos := by intros; rfl)
    (hg : ∀ s m n, g (s.withInput m n) = (g s).withInput m n := by intros; rfl) : InputBlind fun s => .next (g s) := by
  intro s t h
  obtain rfl := next_eq_next.1 h
  exact ⟨hpos s, fun m n => congrArg _ (hg s m n)⟩

/-- What is due does not depend on the input (R91). -/
theorem whenDue {act : State → Host.Outcome State Fault Refusal} (h : InputBlind act) (f : Format) :
    InputBlind fun s => s.whenDue f (act s) := by
  intro s t ht
  obtain ⟨hp, ht⟩ := State.whenDue_next.1 ht
  obtain ⟨hpos, hin⟩ := h ht
  exact ⟨hpos, fun m n => State.whenDue_next.2 ⟨hp, hin m n⟩⟩

theorem raise (e : ErrCode) : InputBlind fun s => .next (s.raise e) :=
  of_next fun _ h => absurd rfl h

theorem finishBody : InputBlind fun s => .next s.finishBody := by
  refine of_next (fun s _ => ?_) fun s m n => ?_
  · unfold State.finishBody
    split <;> rfl
  · cases h : s.mode <;> simp [State.finishBody, State.withInput, h] <;> rfl

theorem copyStep : InputBlind State.copyStep := by
  intro s t h
  obtain ⟨b, hread, rfl⟩ := State.copyStep_next.1 h
  exact ⟨fun _ => rfl, fun m n => State.copyStep_next.2 ⟨b, hread, rfl⟩⟩

theorem finishLens (hlit hdist : BitVec 5) (lens : List (BitVec 4)) :
    InputBlind fun s => .next (s.finishLens hlit hdist lens) := by
  refine of_next (fun s hp => ?_) fun s m n => ?_
  · obtain ⟨e, h, -⟩ | ⟨ll, d, -, -, -, h⟩ := s.finishLens_cases hlit hdist lens <;> rw [h] at hp ⊢
    · exact absurd rfl hp
    · rfl
  · unfold State.finishLens
    dsimp only
    repeat' split
    all_goals rfl

theorem startCopy (length : BitVec 9) (distance : BitVec 16) :
    InputBlind fun s => .next (s.startCopy length distance) := by
  refine of_next (fun s hp => ?_) fun s m n => ?_
  · obtain ⟨-, h⟩ | ⟨-, -, -, h⟩ := s.startCopy_cases length distance <;> rw [h] at hp ⊢
    · exact absurd rfl hp
    · rfl
  · unfold State.startCopy
    show (if length = 0#9 ∨ distance = 0#16 ∨ s.totalOut < distance.toNat then _ else _) = _
    split <;> rfl

theorem lengthSymbol (length : BitVec 9) : InputBlind (State.lengthSymbol · length) :=
  whenDue of_next .llSym

theorem distanceSymbol (distance : BitVec 16) : InputBlind (State.distanceSymbol · distance) := by
  intro s t h
  obtain ⟨length, hm, hp, rfl⟩ := State.distanceSymbol_next.1 h
  obtain ⟨hpos, hin⟩ := startCopy length distance (s := s) rfl
  exact ⟨hpos, fun m n => State.distanceSymbol_next.2 ⟨length, hm, hp, next_eq_next.1 (hin m n)⟩⟩

theorem codeLengths (produce : List (BitVec 4) → Option (List (BitVec 4))) :
    InputBlind (State.codeLengths · produce) := by
  intro s t h
  obtain ⟨hlit, hdist, tab, lens, hm, hp, h⟩ := State.codeLengths_next.1 h
  obtain ⟨hnone, rfl⟩ | ⟨new, hnew, ⟨hlt, rfl⟩ | ⟨hle, rfl⟩⟩ := h
  · exact ⟨fun h => absurd rfl h,
      fun m n => State.codeLengths_next.2 ⟨hlit, hdist, tab, lens, hm, hp, .inl ⟨hnone, rfl⟩⟩⟩
  · exact ⟨fun _ => rfl,
      fun m n => State.codeLengths_next.2 ⟨hlit, hdist, tab, lens, hm, hp, .inr ⟨new, hnew, .inl ⟨hlt, rfl⟩⟩⟩⟩
  · obtain ⟨hpos, hin⟩ := finishLens hlit hdist (lens ++ new) (s := s) rfl
    exact ⟨hpos, fun m n => State.codeLengths_next.2
      ⟨hlit, hdist, tab, lens, hm, hp, .inr ⟨new, hnew, .inr ⟨hle, next_eq_next.1 (hin m n)⟩⟩⟩⟩

theorem storedHdr (len nlen : BitVec 16) : InputBlind (execStoredHdr len nlen) := by
  refine whenDue (of_next (fun s => ?_) fun s m n => ?_) .storedHdr
  · split <;> simp
  · split <;> rfl

theorem clLens (lens : List (BitVec 3)) : InputBlind (execClLens lens) := by
  intro s t h
  obtain ⟨hlit, hdist, hclen, hm, hlen, hp, ⟨e, hb, rfl⟩ | ⟨tab, hb, rfl⟩⟩ := execClLens_next.1 h
  · exact ⟨fun h => absurd rfl h,
      fun m n => execClLens_next.2 ⟨hlit, hdist, hclen, hm, hlen, hp, .inl ⟨e, hb, rfl⟩⟩⟩
  · exact ⟨fun _ => rfl, fun m n => execClLens_next.2 ⟨hlit, hdist, hclen, hm, hlen, hp, .inr ⟨tab, hb, rfl⟩⟩⟩

theorem zhdr (cmf flg : Byte) : InputBlind (execZhdr cmf flg) := by
  refine whenDue (of_next (fun s => ?_) fun s m n => ?_) .zhdr
  · split <;> simp
  · split <;> rfl

theorem ztrailer (expected : BitVec 32) : InputBlind (execZtrailer expected) := by
  refine whenDue (of_next (fun s => ?_) fun s m n => ?_) .ztrailer
  · split <;> simp
  · show (if expected ≠ s.adler then _ else _) = _
    split <;> rfl

/-- The meaning of an element, its operands read, does not look at the input. -/
theorem exec (i : Instr) : InputBlind (Machine.exec i) := by
  cases i with
  | blkStored | blkFixed | blkDynamic => exact whenDue of_next .blkHdr
  | blkReserved => exact (raise .eBtypeReserved).whenDue .blkHdr
  | storedHdr len nlen => exact storedHdr len nlen
  | rawByte => exact whenDue of_next .rawByte
  | dynHdr => exact whenDue of_next .dynHdr
  | clLens lens => exact clLens lens
  | clLen len => exact codeLengths fun _ => some [len]
  | clCopy => exact codeLengths _
  | clZero3 x => exact codeLengths fun _ => some (List.replicate (3 + x.toNat) 0#4)
  | clZero11 x => exact codeLengths fun _ => some (List.replicate (11 + x.toNat) 0#4)
  | lit | eob => exact whenDue of_next .llSym
  | llInvalid => exact (raise .eBadSymbol).whenDue .llSym
  | distInvalid => exact (raise .eBadSymbol).whenDue .dSym
  | len257 | len258 | len259 | len260 | len261 | len262 | len263 | len264 | len265 | len266 | len267 | len268 | len269
  | len270 | len271 | len272 | len273 | len274 | len275 | len276 | len277 | len278 | len279 | len280 | len281 | len282
  | len283 | len284 | len285 => exact lengthSymbol _
  | dist0 | dist1 | dist2 | dist3 | dist4 | dist5 | dist6 | dist7 | dist8 | dist9 | dist10 | dist11 | dist12 | dist13
  | dist14 | dist15 | dist16 | dist17 | dist18 | dist19 | dist20 | dist21 | dist22 | dist23 | dist24 | dist25 | dist26
  | dist27 | dist28 | dist29 => exact distanceSymbol _
  | zhdr cmf flg => exact zhdr cmf flg
  | ztrailer expected => exact ztrailer expected

end InputBlind

/-- A fetch reads no byte beyond the cursor it leaves. -/
theorem State.fetch_withInput {i : Instr} {u : State} (h : s.fetch f = .elem i u)
    (hin : ∀ p < u.cur.inPos, (s.withInput m n).inByte p = s.inByte p) :
    (s.withInput m n).fetch f = .elem i (u.withInput m n) := by
  obtain ⟨hal, c, cur, hctx, hdec, rfl⟩ := State.fetch_elem.1 h
  exact State.fetch_elem.2 ⟨hal, c, cur, hctx, (cursorSource_agreeOn hin).decode hdec le_rfl, rfl⟩

/-- An element step that goes on and does not fail reads no byte beyond the cursor it leaves. -/
theorem State.engine_withInput (h : s.engine = .next t) (hne : t ≠ s) (hf : t.phase ≠ .failed)
    (hin : ∀ p < t.cur.inPos, (s.withInput m n).inByte p = s.inByte p) :
    (s.withInput m n).engine = .next (t.withInput m n) := by
  obtain ⟨-, rfl⟩ | ⟨hp, rfl⟩ | ⟨-, -, rfl⟩ | ⟨hp, hsink, hcopy⟩ | ⟨f, hp, h⟩ := State.engine_next.1 h
  · exact absurd rfl hne
  · obtain ⟨-, hblind⟩ := InputBlind.finishBody (s := s) rfl
    exact State.engine_next.2 (.inr (.inl ⟨hp, next_eq_next.1 (hblind m n)⟩))
  · exact absurd rfl hne
  · obtain ⟨-, hblind⟩ := InputBlind.copyStep hcopy
    exact State.engine_next.2 (.inr (.inr (.inr (.inl ⟨hp, hsink, hblind m n⟩))))
  · obtain ⟨-, rfl⟩ | ⟨e, -, rfl⟩ | ⟨i, u, hfetch, ⟨-, -, rfl⟩ | ⟨hsink, hexec⟩⟩ := h
    · exact absurd rfl hne
    · exact absurd rfl hf
    · exact absurd rfl hne
    · obtain ⟨hpos, hblind⟩ := InputBlind.exec i hexec
      have hfetch' := State.fetch_withInput hfetch (hpos hf ▸ hin)
      exact State.engine_next.2 (.inr (.inr (.inr (.inr ⟨f, hp, .inr (.inr ⟨i, _, hfetch', .inr ⟨hsink, hblind m n⟩⟩)⟩))))

theorem step_engine (h : s.hostOps = []) : step s = s.engine := by
  simp only [step, h]

/-- Settles O54: the fetch reads up to the cursor it leaves, and the rest of the step is blind to the input. -/
theorem bytesAheadAreNotExamined : Obligations.BytesAheadAreNotExamined := by
  intro s t m n hops hstep hne hf hin
  rw [step_engine hops] at hstep
  exact (step_engine (s := s.withInput m n) hops).trans (State.engine_withInput hstep hne hf hin)

end Sys2Proof.Machine
end

section
/-! PROOFS. The fields of an element on a list of bits (20_memory.md R69, R70; 40_bitstream_reader.md R141 to R143): a read answers
a value exactly when the list begins with that value's bits. -/

namespace Sys2Proof.Machine

variable {bits rest : List Bool} {n v w : Nat}

/-- The number whose bits are given, least-significant bit first (R69). -/
def lsbValue (bits : List Bool) : Nat := bits.foldr (fun b v => b.toNat + 2 * v) 0

@[simp] theorem lsbValue_nil : lsbValue [] = 0 := rfl

@[simp] theorem lsbValue_cons (b : Bool) (bits : List Bool) : lsbValue (b :: bits) = b.toNat + 2 * lsbValue bits := rfl

theorem lsbValue_lt (bits : List Bool) : lsbValue bits < 2 ^ bits.length := by
  induction bits with
  | nil => simp
  | cons b bits ih =>
    have := b.toNat_le
    simp only [lsbValue_cons, List.length_cons, Nat.pow_succ]
    omega

theorem lsbBits_lsbValue (bits : List Bool) : lsbBits bits.length (lsbValue bits) = bits := by
  induction bits with
  | nil => rfl
  | cons b bits ih =>
    have hb : (b.toNat + 2 * lsbValue bits) / 2 = lsbValue bits := by cases b <;> simp; omega
    rw [List.length_cons, lsbBits, lsbValue_cons, hb, ih]
    cases b <;> simp

theorem lsbValue_lsbBits (h : v < 2 ^ n) : lsbValue (lsbBits n v) = v := by
  induction n generalizing v with
  | zero => simp [lsbBits]; omega
  | succ n ih =>
    rw [Nat.pow_succ] at h
    rw [lsbBits, lsbValue_cons, ih (by omega)]
    obtain h2 | h2 := Nat.mod_two_eq_zero_or_one v <;> simp [h2] <;> omega

/-- `n` bits determine a value below `2 ^ n`. -/
theorem lsbBits_inj (hv : v < 2 ^ n) (hw : w < 2 ^ n) : lsbBits n v = lsbBits n w ↔ v = w :=
  ⟨fun h => by rw [← lsbValue_lsbBits hv, h, lsbValue_lsbBits hw], congrArg _⟩

/-- `EAT_BITS(n)` on a list takes its first `n` bits and answers their number (R141). -/
theorem eatBits_listSource :
    eatBits listSource n bits = some (v, rest) ↔ ∃ used, used.length = n ∧ v = lsbValue used ∧ bits = used ++ rest := by
  induction n generalizing bits v with
  | zero => simp [List.length_eq_zero_iff, eq_comm]
  | succ n ih =>
    simp only [eatBits_succ, Option.bind_eq_some_iff, Option.map_eq_some_iff, Prod.mk.injEq]
    constructor
    · rintro ⟨⟨b, tail⟩, hbit, ⟨u, rest⟩, htail, rfl, rfl⟩
      cases bits <;> cases hbit
      obtain ⟨used, rfl, rfl, rfl⟩ := ih.1 htail
      exact ⟨b :: used, rfl, rfl, rfl⟩
    · rintro ⟨used, hlen, rfl, rfl⟩
      obtain ⟨b, used, rfl⟩ := List.exists_cons_of_length_eq_add_one hlen
      exact ⟨(b, used ++ rest), rfl, (lsbValue used, rest), ih.2 ⟨used, Nat.succ.inj hlen, rfl, rfl⟩, rfl, rfl⟩

/-- The bits of a field of `n` bits are those of one operand (R69). -/
theorem exists_lsbBits {P : Nat → List Bool → Prop} :
    (∃ used, used.length = n ∧ P (lsbValue used) used) ↔ ∃ x : BitVec n, P x.toNat (lsbBits n x.toNat) := by
  constructor
  · rintro ⟨used, rfl, h⟩
    exact ⟨BitVec.ofNatLT _ (lsbValue_lt used), by simpa [lsbBits_lsbValue] using h⟩
  · rintro ⟨x, h⟩
    exact ⟨lsbBits n x.toNat, lsbBits_length _ _, by rwa [lsbValue_lsbBits x.isLt]⟩

/-- On a list `EAT_BITS(n)` answers the operand with whose bits the list begins (R69, R141). -/
theorem eatBits_list :
    eatBits listSource n bits = some (v, rest) ↔ ∃ x : BitVec n, v = x.toNat ∧ bits = lsbBits n x.toNat ++ rest :=
  eatBits_listSource.trans (exists_lsbBits (P := fun u used => v = u ∧ bits = used ++ rest))

/-- `EAT_RAW(1)` on a list takes eight bits, least-significant bit first (R68, R143). -/
theorem byte_list {b : Byte} : listSource.byte bits = some (b, rest) ↔ bits = lsbBits 8 b.toNat ++ rest := by
  show (if bits.length < 8 then none else some (BitVec.ofNat 8 (lsbValue (bits.take 8)), bits.drop 8)) = _ ↔ _
  constructor
  · intro h
    split at h
    · cases h
    next hlen =>
      cases h
      have htake : (bits.take 8).length = 8 := by rw [List.length_take]; omega
      have hlt := htake ▸ lsbValue_lt (bits.take 8)
      have hbits := htake ▸ lsbBits_lsbValue (bits.take 8)
      rw [BitVec.toNat_ofNat, Nat.mod_eq_of_lt hlt, hbits, List.take_append_drop]
  · rintro rfl
    have hlen : (lsbBits 8 b.toNat).length = 8 := lsbBits_length _ _
    rw [List.take_left' hlen, List.drop_left' hlen, lsbValue_lsbBits b.isLt, if_neg (by simp)]
    simp

/-- One more field (R175). -/
theorem eatFields_succ {σ : Type} {src : Source σ} {s s' : σ} {k : Nat} {vs : List Nat} :
    eatFields src n (k + 1) s = some (vs, s') ↔
      ∃ v s1, eatBits src n s = some (v, s1) ∧ ∃ tail, eatFields src n k s1 = some (tail, s') ∧ vs = v :: tail := by
  rw [eatFields]
  rcases eatBits src n s with _ | ⟨v, s1⟩
  · simp
  · rcases h : eatFields src n k s1 with _ | ⟨tail, s2⟩ <;> simp [h, and_comm, eq_comm]

/-- On a list `k` fields of one width answer the operands with whose bits the list begins (R175). -/
theorem eatFields_list {k : Nat} {vs : List Nat} :
    eatFields listSource n k bits = some (vs, rest) ↔
      ∃ xs : List (BitVec n), xs.length = k ∧ vs = xs.map BitVec.toNat ∧
        bits = (xs.flatMap fun x => lsbBits n x.toNat) ++ rest := by
  induction k generalizing bits vs with
  | zero => simp [eatFields, List.length_eq_zero_iff, eq_comm]
  | succ k ih =>
    simp only [eatFields_succ, eatBits_list, ih]
    constructor
    · rintro ⟨_, _, ⟨x, rfl, rfl⟩, _, ⟨xs, rfl, rfl, rfl⟩, rfl⟩
      exact ⟨x :: xs, rfl, rfl, by simp⟩
    · rintro ⟨xs, hk, rfl, rfl⟩
      obtain ⟨x, xs, rfl⟩ := List.exists_cons_of_length_eq_add_one hk
      exact ⟨_, _, ⟨x, rfl, List.append_assoc ..⟩, _, ⟨xs, Nat.succ.inj hk, rfl, rfl⟩, rfl⟩

end Sys2Proof.Machine
end

section
/-! PROOFS. Huffman codes on a list of bits (30_encoding.md R92; 41_huffman_tables.md R160, R171): where no code begins
another, DECODE answers the symbol whose code the list begins with. -/

namespace Sys2Proof.Machine

variable {bits rest code : List Bool} {n v w len sym : Nat} {t : Table} {e f : Entry}

/-- One more bit at the end of a code (R171). -/
theorem msbBits_succ (n v : Nat) (b : Bool) : msbBits (n + 1) (2 * v + b.toNat) = msbBits n v ++ [b] := by
  have hdiv : (2 * v + b.toNat) / 2 = v := by cases b <;> simp; omega
  rw [msbBits, lsbBits, hdiv, List.reverse_cons, msbBits]
  cases b <;> simp

theorem msbBits_inj (hv : v < 2 ^ n) (hw : w < 2 ^ n) : msbBits n v = msbBits n w ↔ v = w :=
  List.reverse_inj.trans (lsbBits_inj hv hw)

/-- A symbol found is that of an entry with the code asked for. -/
theorem entry_of_lookup (h : lookup t len v = some sym) : ∃ e ∈ t, e.sym = sym ∧ e.len = len ∧ e.code = v := by
  obtain ⟨e, he, rfl⟩ := Option.map_eq_some_iff.1 h
  have hp := List.find?_some he
  simp only [Bool.and_eq_true, beq_iff_eq] at hp
  exact ⟨e, List.mem_of_find?_eq_some he, rfl, hp⟩

theorem lookup_ne_none (he : e ∈ t) : lookup t e.len e.code ≠ none := by
  simp only [lookup, ne_eq, Option.map_eq_none_iff, List.find?_eq_none, not_forall]
  exact ⟨e, he, by simp⟩

/-- Where no code begins another, only one entry's code begins a list of bits (R160). -/
theorem PrefixCode.eq_of_prefix (hp : PrefixCode t) (he : e ∈ t) (hf : f ∈ t) (h1 : entryBits e <+: bits)
    (h2 : entryBits f <+: bits) : e = f := by
  have : Std.Symm fun e f : Entry => ¬ entryBits e <+: entryBits f ∧ ¬ entryBits f <+: entryBits e := ⟨fun _ _ => And.symm⟩
  by_contra hne
  obtain ⟨hef, hfe⟩ := hp.forall he hf hne
  exact (List.prefix_or_prefix_of_prefix h1 h2).elim hef hfe

/-- The loop of `DECODE` reads a code: `v` is the value of the `len` bits read so far (R171). -/
theorem walk_list {fuel : Nat} (h : walk listSource t fuel len v bits = some (sym, rest)) :
    ∃ e ∈ t, e.sym = sym ∧ msbBits len v ++ bits = entryBits e ++ rest := by
  induction fuel generalizing len v bits with
  | zero => cases h
  | succ fuel ih =>
    cases bits with
    | nil => cases h
    | cons b bits =>
      simp only [walk, listSource_bit_cons] at h
      have hstep : msbBits len v ++ b :: bits = msbBits (len + 1) (2 * v + b.toNat) ++ bits := by
        rw [msbBits_succ, List.append_assoc, List.singleton_append]
      rw [hstep]
      split at h
      next hfound =>
        cases h
        obtain ⟨e, he, hsym, hlen, hcode⟩ := entry_of_lookup hfound
        exact ⟨e, he, hsym, by rw [entryBits, hlen, hcode]⟩
      next => exact ih h

/-- The loop of `DECODE` finds the entry whose code the bits begin with, if no entry's code begins another's. -/
theorem walk_entry (hfits : Fits n t) (hp : PrefixCode t) (he : e ∈ t) {fuel : Nat} (hlt : len < e.len)
    (hfuel : e.len ≤ len + fuel) (hv : v < 2 ^ len) (h : msbBits len v ++ bits = entryBits e ++ rest) :
    walk listSource t fuel len v bits = some (e.sym, rest) := by
  induction fuel generalizing len v bits with
  | zero => omega
  | succ fuel ih =>
    cases bits with
    | nil =>
      have := congrArg List.length h
      simp [entryBits] at this
      omega
    | cons b bits =>
      have hv' : 2 * v + b.toNat < 2 ^ (len + 1) := by
        have := b.toNat_le
        rw [Nat.pow_succ]; omega
      have hstep : msbBits (len + 1) (2 * v + b.toNat) ++ bits = entryBits e ++ rest := by
        rw [← h, msbBits_succ, List.append_assoc, List.singleton_append]
      simp only [walk, listSource_bit_cons]
      split
      next sym hfound =>
        obtain ⟨f, hf, rfl, hlen, hcode⟩ := entry_of_lookup hfound
        have hbits : entryBits f = msbBits (len + 1) (2 * v + b.toNat) := by rw [entryBits, hlen, hcode]
        rw [← hbits] at hstep
        obtain rfl : f = e := hp.eq_of_prefix hf he ⟨bits, hstep⟩ ⟨rest, rfl⟩
        rw [List.append_cancel_left hstep]
      next hnone =>
        have hne : e.len ≠ len + 1 := by
          intro hlen
          obtain ⟨-, -, hcode, -⟩ := hfits e he
          rw [entryBits, hlen] at hstep
          have := (msbBits_inj hv' (hlen ▸ hcode)).1 (List.append_inj_left hstep (by simp))
          exact lookup_ne_none he (by rw [hlen, ← this, hnone])
        exact ih (by omega) (by omega) hv' hstep

/-- On a list `DECODE` answers the symbol with whose code the list begins (R171). -/
theorem decodeSym_list (hfits : Fits n t) (hp : PrefixCode t) :
    decodeSym listSource t bits = some (sym, rest) ↔ ∃ e ∈ t, e.sym = sym ∧ bits = entryBits e ++ rest := by
  constructor
  · exact walk_list
  · rintro ⟨e, he, rfl, rfl⟩
    obtain ⟨hpos, hmax, -, -⟩ := hfits e he
    exact walk_entry hfits hp he hpos (by omega) (by simp) rfl

/-- The code of a symbol is that of an entry (R160). -/
theorem entry_of_codeBits (h : codeBits t sym = some code) : ∃ e ∈ t, e.sym = sym ∧ entryBits e = code := by
  obtain ⟨e, he, hcode⟩ := Option.map_eq_some_iff.1 h
  exact ⟨e, List.mem_of_find?_eq_some he, by simpa using List.find?_some he, hcode⟩

/-- Where every symbol has one code, each entry is that of its symbol (R160, R166). -/
theorem codeBits_entry (ht : (t.map Entry.sym).Nodup) (he : e ∈ t) : codeBits t e.sym = some (entryBits e) := by
  obtain ⟨f, hf⟩ : ∃ f, t.find? (fun f => f.sym == e.sym) = some f :=
    Option.ne_none_iff_exists'.1 fun h => by simpa using List.find?_eq_none.1 h e he
  have hsym : f.sym = e.sym := by simpa using List.find?_some hf
  obtain rfl : f = e := List.inj_on_of_nodup_map ht (List.mem_of_find?_eq_some hf) he hsym
  simp [codeBits, hf, entryBits]

end Sys2Proof.Machine
end

section
/-! PROOFS. The symbol of a coded element, its extra bits and their value (30_encoding.md R97 to R100): the encoder's table of them is
the decoder's read backwards. -/

namespace Sys2Proof

open Machine

variable {i : Instr} {sym n x : Nat} {noPrevious : Bool}

theorem llInstr_of_llSymbol (h : i.llSymbol = some (sym, n, x)) : llInstr sym x = some i ∧ n = llExtra sym ∧ x < 2 ^ n := by
  cases i with
  | lit b =>
    cases h
    have hb := b.isLt
    simp [llInstr, llExtra, show b.toNat < 256 by omega, show b.toNat < 265 by omega]
  | llInvalid b0 =>
    cases h
    obtain rfl | rfl : b0 = 0#1 ∨ b0 = 1#1 := by bv_omega
    all_goals simp [llInstr, llExtra]
  | _ => cases h <;> exact ⟨by simp [llInstr], rfl, by bv_omega⟩

theorem llSymbol_of_llInstr (h : llInstr sym x = some i) (hx : x < 2 ^ llExtra sym) :
    i.llSymbol = some (sym, llExtra sym, x) := by
  unfold llInstr at h
  split at h
  next hlit =>
    cases h
    have hextra : llExtra sym = 0 := if_pos (by omega)
    rw [hextra] at hx ⊢
    obtain rfl : x = 0 := by omega
    simp [Instr.llSymbol, Nat.mod_eq_of_lt hlit]
  next => split at h <;> cases h <;> simp_all [llExtra, Instr.llSymbol, Nat.mod_eq_of_lt]

theorem dInstr_of_dSymbol (h : i.dSymbol = some (sym, n, x)) : dInstr sym x = some i ∧ n = distExtra sym ∧ x < 2 ^ n := by
  cases i with
  | distInvalid b0 =>
    cases h
    obtain rfl | rfl : b0 = 0#1 ∨ b0 = 1#1 := by bv_omega
    all_goals simp [dInstr, distExtra]
  | _ => cases h <;> exact ⟨by simp [dInstr], rfl, by bv_omega⟩

theorem dSymbol_of_dInstr (h : dInstr sym x = some i) (hx : x < 2 ^ distExtra sym) :
    i.dSymbol = some (sym, distExtra sym, x) := by
  unfold dInstr at h
  split at h <;> cases h <;> simp_all [distExtra, Instr.dSymbol, Nat.mod_eq_of_lt]

/-- `Instr.clSymbol` where it is known whether a previous length exists: without one, CL_COPY ends at its code (R178, R324). -/
def Instr.clSymbolAt (noPrevious : Bool) : Instr → Option (Nat × Nat × Nat)
  | .clCopy x => if noPrevious then (if x = 0#2 then some (16, 0, 0) else none) else some (16, 2, x.toNat)
  | i => i.clSymbol

theorem clExtra_of_lt (h : sym < 16) : clExtra noPrevious sym = 0 := by
  rw [clExtra, if_neg (by omega), if_neg (by omega), if_neg (by omega)]

theorem clInstr_of_clSymbolAt (h : i.clSymbolAt noPrevious = some (sym, n, x)) :
    clInstr sym x = some i ∧ n = clExtra noPrevious sym ∧ x < 2 ^ n := by
  cases i with
  | clLen len =>
    cases h
    have hlen : len.toNat < 16 := len.isLt
    exact ⟨by simp [clInstr, hlen], (clExtra_of_lt hlen).symm, by decide⟩
  | clCopy y =>
    cases noPrevious with
    | false => cases h; exact ⟨by simp [clInstr], rfl, y.isLt⟩
    | true =>
      rw [Instr.clSymbolAt, if_pos rfl] at h
      split at h <;> cases h
      next hy => exact ⟨by simp [clInstr, hy], rfl, by decide⟩
  | clZero3 y => cases h; exact ⟨by simp [clInstr], rfl, y.isLt⟩
  | clZero11 y => cases h; exact ⟨by simp [clInstr], rfl, y.isLt⟩
  | _ => cases h

theorem clSymbolAt_of_clInstr (h : clInstr sym x = some i) (hx : x < 2 ^ clExtra noPrevious sym) :
    i.clSymbolAt noPrevious = some (sym, clExtra noPrevious sym, x) := by
  unfold clInstr at h
  split at h
  next hsym =>
    cases h
    rw [clExtra_of_lt hsym] at hx ⊢
    obtain rfl : x = 0 := by omega
    simp [Instr.clSymbolAt, Instr.clSymbol, Nat.mod_eq_of_lt hsym]
  next =>
    repeat' split at h
    all_goals cases h
    all_goals subst_vars
    · cases noPrevious with
      | false => simpa [clExtra, Instr.clSymbolAt] using hx
      | true =>
        obtain rfl : x = 0 := by simpa [clExtra] using hx
        rfl
    all_goals simpa [clExtra, Instr.clSymbolAt, Instr.clSymbol] using hx

theorem encode_clSym (t : Table) : encode (.clSym t noPrevious) i = encodeCoded t (i.clSymbolAt noPrevious) := by
  cases i with
  | clCopy x =>
    cases noPrevious with
    | false => rfl
    | true => by_cases hx : x = 0#2 <;> simp [encode, Instr.clSymbolAt, encodeCoded, hx, lsbBits]
  | _ => rfl

end Sys2Proof
end

section
/-! PROOFS. The decoder and the encoder invert each other (30_encoding.md section 1), settling O36 and O37: contexts of fixed fields by
the bits of each field, coded contexts by the code of the symbol and its extra bits. -/

namespace Sys2Proof

open Machine

variable {i : Instr} {bits rest used : List Bool} {n : Nat} {t : Table} {c : Ctx} {symbol : Option (Nat × Nat × Nat)}
  {extra : Nat → Nat} {instr : Nat → Nat → Option Instr}

/-! Contexts of fixed fields. -/

/-- The decoder reads an element exactly from the bits the encoder gives it, whatever follows them. -/
def Ctx.Inverts (c : Ctx) : Prop :=
  ∀ i bits rest, decode listSource c bits = .elem i rest ↔ ∃ used, encode c i = some used ∧ bits = used ++ rest

theorem encode_blkInstr (f : BitVec 1) (b : BitVec 2) :
    encode .blkHdr (blkInstr f.toNat b.toNat) = some (lsbBits 1 f.toNat ++ lsbBits 2 b.toNat) := by
  obtain rfl | rfl : f = 0#1 ∨ f = 1#1 := by bv_omega
  all_goals
    obtain rfl | rfl | rfl | rfl : b = 0#2 ∨ b = 1#2 ∨ b = 2#2 ∨ b = 3#2 := by bv_omega
    all_goals rfl

/-- Every block header element is that of its two fields (R93). -/
theorem encode_blkHdr (h : encode .blkHdr i = some used) :
    ∃ (f : BitVec 1) (b : BitVec 2), i = blkInstr f.toNat b.toNat ∧ used = lsbBits 1 f.toNat ++ lsbBits 2 b.toNat := by
  cases i with
  | blkStored f => cases h; exact ⟨BitVec.ofBool f, 0#2, by cases f <;> rfl, by cases f <;> rfl⟩
  | blkFixed f => cases h; exact ⟨BitVec.ofBool f, 1#2, by cases f <;> rfl, by cases f <;> rfl⟩
  | blkDynamic f => cases h; exact ⟨BitVec.ofBool f, 2#2, by cases f <;> rfl, by cases f <;> rfl⟩
  | blkReserved f => cases h; exact ⟨BitVec.ofBool f, 3#2, by cases f <;> rfl, by cases f <;> rfl⟩
  | _ => cases h

theorem blkHdr_inverts : Ctx.blkHdr.Inverts := by
  intro i bits rest
  simp only [decode, Decoded.ofOption_elem, readBlkHdr_some, eatBits_list]
  constructor
  · rintro ⟨_, _, ⟨f, rfl, rfl⟩, _, ⟨b, rfl, rfl⟩, rfl⟩
    exact ⟨_, encode_blkInstr f b, by simp⟩
  · rintro ⟨used, hused, rfl⟩
    obtain ⟨f, b, rfl, rfl⟩ := encode_blkHdr hused
    exact ⟨_, _, ⟨f, rfl, List.append_assoc ..⟩, _, ⟨b, rfl, rfl⟩, rfl⟩

theorem storedHdr_inverts : Ctx.storedHdr.Inverts := by
  intro i bits rest
  simp only [decode, Decoded.ofOption_elem, readStoredHdr_some, eatBits_list]
  constructor
  · rintro ⟨_, _, ⟨len, rfl, rfl⟩, _, ⟨nlen, rfl, rfl⟩, rfl⟩
    exact ⟨lsbBits 16 len.toNat ++ lsbBits 16 nlen.toNat, by simp [encode], by simp⟩
  · rintro ⟨used, hused, rfl⟩
    cases i <;> cases hused
    next len nlen =>
      exact ⟨_, _, ⟨len, rfl, List.append_assoc ..⟩, _, ⟨nlen, rfl, rfl⟩, by simp⟩

theorem zhdr_inverts : Ctx.zhdr.Inverts := by
  intro i bits rest
  simp only [decode, Decoded.ofOption_elem, readZhdr_some, eatBits_list]
  constructor
  · rintro ⟨_, _, ⟨cmf, rfl, rfl⟩, _, ⟨flg, rfl, rfl⟩, rfl⟩
    exact ⟨lsbBits 8 cmf.toNat ++ lsbBits 8 flg.toNat, by simp [encode], by simp⟩
  · rintro ⟨used, hused, rfl⟩
    cases i <;> cases hused
    next cmf flg =>
      exact ⟨_, _, ⟨cmf, rfl, List.append_assoc ..⟩, _, ⟨flg, rfl, rfl⟩, by simp⟩

theorem dynHdr_inverts : Ctx.dynHdr.Inverts := by
  intro i bits rest
  simp only [decode, Decoded.ofOption_elem, readDynHdr_some, eatBits_list]
  constructor
  · rintro ⟨_, _, ⟨hlit, rfl, rfl⟩, _, _, ⟨hdist, rfl, rfl⟩, _, ⟨hclen, rfl, rfl⟩, rfl⟩
    exact ⟨lsbBits 5 hlit.toNat ++ lsbBits 5 hdist.toNat ++ lsbBits 4 hclen.toNat, by simp [encode], by simp⟩
  · rintro ⟨used, hused, rfl⟩
    cases i <;> cases hused
    next hlit hdist hclen =>
      rw [List.append_assoc, List.append_assoc]
      exact ⟨_, _, ⟨hlit, rfl, rfl⟩, _, _, ⟨hdist, rfl, rfl⟩, _, ⟨hclen, rfl, rfl⟩, by simp⟩

theorem clLens_inverts (n : Nat) : (Ctx.clLens n).Inverts := by
  intro i bits rest
  simp only [decode, Decoded.ofOption_elem, readClLens_some, eatFields_list]
  constructor
  · rintro ⟨_, ⟨lens, rfl, rfl, rfl⟩, rfl⟩
    exact ⟨lens.flatMap fun l => lsbBits 3 l.toNat, by simp [encode, Function.comp_def], rfl⟩
  · rintro ⟨used, hused, rfl⟩
    cases i <;> simp only [encode, reduceCtorEq] at hused
    next lens =>
      split at hused <;> cases hused
      next hlen => exact ⟨_, ⟨lens, hlen, rfl, rfl⟩, by simp [Function.comp_def]⟩

theorem rawByte_inverts : Ctx.rawByte.Inverts := by
  intro i bits rest
  simp only [decode, Decoded.ofOption_elem, readRawByte_some, byte_list]
  constructor
  · rintro ⟨b, rfl, rfl⟩
    exact ⟨lsbBits 8 b.toNat, rfl, rfl⟩
  · rintro ⟨used, hused, rfl⟩
    cases i <;> cases hused
    next b => exact ⟨b, rfl, rfl⟩

theorem byteReverse_four {a b c d : Nat} (ha : a < 256) (hb : b < 256) (hc : c < 256) (hd : d < 256) :
    byteReverse 4 (a + 256 * (b + 256 * (c + 256 * d))) = d + 256 * (c + 256 * (b + 256 * a)) := by
  have hmod {x y : Nat} (hx : x < 256) : (x + 256 * y) % 256 = x := by omega
  have hdiv {x y : Nat} (hx : x < 256) : (x + 256 * y) / 256 = y := by omega
  simp only [byteReverse, hmod ha, hdiv ha, hmod hb, hdiv hb, hmod hc, hdiv hc, Nat.mod_eq_of_lt hd]
  omega

/-- Four bytes turned around twice are as before (R142). -/
theorem byteReverse_byteReverse {v : Nat} (h : v < 2 ^ 32) :
    byteReverse 4 v < 2 ^ 32 ∧ byteReverse 4 (byteReverse 4 v) = v := by
  obtain ⟨a, b, c, d, ha, hb, hc, hd, rfl⟩ : ∃ a b c d, a < 256 ∧ b < 256 ∧ c < 256 ∧ d < 256 ∧
      v = a + 256 * (b + 256 * (c + 256 * d)) :=
    ⟨v % 256, v / 256 % 256, v / 256 / 256 % 256, v / 256 / 256 / 256, by omega, by omega, by omega, by omega, by omega⟩
  rw [byteReverse_four ha hb hc hd, byteReverse_four hd hc hb ha]
  omega

theorem ztrailer_inverts : Ctx.ztrailer.Inverts := by
  intro i bits rest
  simp only [decode, Decoded.ofOption_elem, readZtrailer_some, eatBits_list]
  constructor
  · rintro ⟨_, ⟨v, rfl, rfl⟩, rfl⟩
    refine ⟨lsbBits 32 v.toNat, ?_, rfl⟩
    obtain ⟨hlt, hrev⟩ := byteReverse_byteReverse v.isLt
    rw [encode, BitVec.toNat_ofNat, Nat.mod_eq_of_lt hlt, hrev]
  · rintro ⟨used, hused, rfl⟩
    cases i <;> cases hused
    next v =>
      obtain ⟨hlt, hrev⟩ := byteReverse_byteReverse v.isLt
      refine ⟨byteReverse 4 v.toNat, ⟨BitVec.ofNatLT _ hlt, rfl, rfl⟩, ?_⟩
      rw [hrev, BitVec.ofNat_toNat, BitVec.setWidth_eq]

/-- The contexts of the Huffman-coded formats (R92). -/
def Ctx.coded : Ctx → Bool
  | .clSym _ _ | .llSym _ | .dSym _ => true
  | _ => false

theorem Ctx.inverts (h : c.coded = false) : c.Inverts := by
  cases c with
  | zhdr => exact zhdr_inverts
  | blkHdr => exact blkHdr_inverts
  | storedHdr => exact storedHdr_inverts
  | dynHdr => exact dynHdr_inverts
  | clLens n => exact clLens_inverts n
  | rawByte => exact rawByte_inverts
  | ztrailer => exact ztrailer_inverts
  | clSym | llSym | dSym => cases h

/-! Coded contexts. -/

theorem encodeCoded_eq_some :
    encodeCoded t symbol = some used ↔
      ∃ sym n x code, symbol = some (sym, n, x) ∧ codeBits t sym = some code ∧ used = code ++ lsbBits n x := by
  rcases symbol with _ | ⟨sym, n, x⟩ <;> simp [encodeCoded, eq_comm]

/-- The decoder reads a coded element from its code and its extra bits, if its symbol is the decoder's (R92). -/
theorem decodeCoded_of_encodeCoded (hfits : Fits n t) (hp : PrefixCode t)
    (hsym : ∀ {sym n x}, symbol = some (sym, n, x) → instr sym x = some i ∧ n = extra sym ∧ x < 2 ^ n)
    (h : encodeCoded t symbol = some used) : decodeCoded listSource t extra instr (used ++ rest) = .elem i rest := by
  obtain ⟨sym, n, x, code, hs, hcode, rfl⟩ := encodeCoded_eq_some.1 h
  obtain ⟨hinstr, rfl, hx⟩ := hsym hs
  obtain ⟨e, he, rfl, rfl⟩ := entry_of_codeBits hcode
  exact decodeCoded_elem.2 ⟨List.isEmpty_eq_false_iff.2 (List.ne_nil_of_mem he), e.sym, _,
    (decodeSym_list hfits hp).2 ⟨e, he, rfl, List.append_assoc ..⟩, x,
    eatBits_list.2 ⟨BitVec.ofNatLT x hx, rfl, rfl⟩, hinstr⟩

/-- The encoder gives a coded element the bits it was read from, if every symbol has one code only (R92, R166). -/
theorem encodeCoded_of_decodeCoded (hfits : Fits n t) (hp : PrefixCode t) (hone : (t.map Entry.sym).Nodup)
    (hsym : ∀ {sym x}, instr sym x = some i → x < 2 ^ extra sym → symbol = some (sym, extra sym, x))
    (h : decodeCoded listSource t extra instr bits = .elem i rest) :
    ∃ used, encodeCoded t symbol = some used ∧ bits = used ++ rest := by
  obtain ⟨-, sym, s1, hs, x, hx, hinstr⟩ := decodeCoded_elem.1 h
  obtain ⟨e, he, rfl, rfl⟩ := (decodeSym_list hfits hp).1 hs
  obtain ⟨y, rfl, rfl⟩ := eatBits_list.1 hx
  exact ⟨entryBits e ++ lsbBits (extra e.sym) y.toNat,
    encodeCoded_eq_some.2 ⟨_, _, _, _, hsym hinstr y.isLt, codeBits_entry hone he, rfl⟩, (List.append_assoc ..).symm⟩

/-- Settles O36: a fixed-field context inverts, and a coded one reads back the code and the extra bits. -/
theorem decodeInvertsEncode : Obligations.DecodeInvertsEncode := by
  intro c i bits rest hok h
  cases c with
  | clSym t noPrevious => exact decodeCoded_of_encodeCoded hok.1 hok.2 clInstr_of_clSymbolAt (encode_clSym t ▸ h)
  | llSym t => exact decodeCoded_of_encodeCoded hok.1 hok.2 llInstr_of_llSymbol h
  | dSym t => exact decodeCoded_of_encodeCoded hok.1 hok.2 dInstr_of_dSymbol h
  | _ => exact (Ctx.inverts rfl i _ rest).2 ⟨bits, h, rfl⟩

/-- Settles O37: a fixed-field context inverts, and a coded one writes back the code of the symbol it read. -/
theorem encodeInvertsDecode : Obligations.EncodeInvertsDecode := by
  intro c i bits rest hok hone h
  cases c with
  | clSym t noPrevious => exact encode_clSym t ▸ encodeCoded_of_decodeCoded hok.1 hok.2 hone clSymbolAt_of_clInstr h
  | llSym t => exact encodeCoded_of_decodeCoded hok.1 hok.2 hone llSymbol_of_llInstr h
  | dSym t => exact encodeCoded_of_decodeCoded hok.1 hok.2 hone dSymbol_of_dInstr h
  | _ => exact (Ctx.inverts rfl i bits rest).1 h

end Sys2Proof
end

section
/-! PROOFS. What is decoded is an element of the format asked for, and a step runs it (30_encoding.md R91, R92), settling O38 and
O33. -/

namespace Sys2Proof

open Machine

variable {σ : Type} {src : Source σ} {s s' : σ} {i : Instr} {sym x n : Nat} {t : Table} {noPrevious : Bool}

/-- Only CLLENS can be ill formed (R95). -/
theorem Instr.wellFormed_of_format (h : i.format ≠ .clLens) : i.WellFormed := by
  cases i with
  | clLens => exact absurd rfl h
  | _ => rfl

theorem clSymbol_format (h : i.clSymbolAt noPrevious = some (sym, n, x)) : i.format = .clSym := by
  cases i with
  | clLen | clCopy | clZero3 | clZero11 => rfl
  | _ => cases h

theorem eatFields_length {vs : List Nat} (h : eatFields src n k s = some (vs, s')) : vs.length = k := by
  induction k generalizing s vs with
  | zero => cases h; rfl
  | succ k ih =>
    obtain ⟨v, s1, -, tail, htail, rfl⟩ := eatFields_succ.1 h
    rw [List.length_cons, ih htail]

theorem blkInstr_format (bfinal btype : Nat) : (blkInstr bfinal btype).format = .blkHdr := by
  unfold blkInstr
  repeat' split
  all_goals rfl

/-- A decoded element has the format of its context (R91). -/
theorem decode_format {c : Ctx} (h : decode src c s = .elem i s') : i.format = c.format := by
  cases c with
  | zhdr =>
    obtain ⟨_, _, _, _, _, rfl⟩ := readZhdr_some.1 (Decoded.ofOption_elem.1 h)
    rfl
  | blkHdr =>
    obtain ⟨_, _, _, _, _, rfl⟩ := readBlkHdr_some.1 (Decoded.ofOption_elem.1 h)
    exact blkInstr_format _ _
  | storedHdr =>
    obtain ⟨_, _, _, _, _, rfl⟩ := readStoredHdr_some.1 (Decoded.ofOption_elem.1 h)
    rfl
  | dynHdr =>
    obtain ⟨_, _, _, _, _, _, _, _, rfl⟩ := readDynHdr_some.1 (Decoded.ofOption_elem.1 h)
    rfl
  | clLens n =>
    obtain ⟨_, _, rfl⟩ := readClLens_some.1 (Decoded.ofOption_elem.1 h)
    rfl
  | rawByte =>
    obtain ⟨_, _, rfl⟩ := readRawByte_some.1 (Decoded.ofOption_elem.1 h)
    rfl
  | ztrailer =>
    obtain ⟨_, _, rfl⟩ := readZtrailer_some.1 (Decoded.ofOption_elem.1 h)
    rfl
  | clSym t noPrevious =>
    obtain ⟨-, _, _, -, _, hx, hi⟩ := decodeCoded_elem.1 h
    exact clSymbol_format (clSymbolAt_of_clInstr hi (eatBits_lt _ _ _ hx))
  | llSym t =>
    obtain ⟨-, _, _, -, _, hx, hi⟩ := decodeCoded_elem.1 h
    exact Laws.Formats.llSymbol_format (by simp [llSymbol_of_llInstr hi (eatBits_lt _ _ _ hx)])
  | dSym t =>
    obtain ⟨-, _, _, -, _, hx, hi⟩ := decodeCoded_elem.1 h
    exact Laws.Formats.dSymbol_format (by simp [dSymbol_of_dInstr hi (eatBits_lt _ _ _ hx)])

/-- CLLENS has as many fields as were asked for (R96). -/
theorem decode_clLens {lens : List (BitVec 3)} (h : decode src (.clLens n) s = .elem (.clLens lens) s') :
    lens.length = n := by
  obtain ⟨vs, hvs, hi⟩ := readClLens_some.1 (Decoded.ofOption_elem.1 h)
  cases hi
  rw [List.length_map, eatFields_length hvs]

theorem decode_wellFormed {c : Ctx} (hc : ∀ n, c = .clLens n → 4 ≤ n ∧ n ≤ 19) (h : decode src c s = .elem i s') :
    i.WellFormed := by
  have hf := decode_format h
  cases c with
  | clLens n =>
    obtain ⟨vs, hvs, rfl⟩ := readClLens_some.1 (Decoded.ofOption_elem.1 h)
    simpa [Instr.WellFormed, Instr.wellFormed, eatFields_length hvs] using hc n rfl
  | _ => exact Instr.wellFormed_of_format (by simp [hf, Ctx.format])

/-- Settles O38: the format by the read of each context, the number of fields by the read of CLLENS. -/
theorem decodedElementsAreWellFormedAndOfTheirFormat : Obligations.DecodedElementsAreWellFormedAndOfTheirFormat := by
  intro σ src c i s s' hc h
  refine ⟨decode_format h, decode_wellFormed hc h, ?_⟩
  rintro n lens rfl rfl
  exact decode_clLens h

theorem Machine.State.engine_elem {s s1 : State} {f : Format} (hp : s.point = .element f) (hf : s.fetch f = .elem i s1)
    (hsink : emits i = true → s.sinkReady = true) : s.engine = exec i s1 := by
  have hwait : (emits i && !s.sinkReady) = false := by
    cases he : emits i with
    | false => rfl
    | true => simp [hsink he]
  simp [State.engine, hp, hf, hwait]

/-- Settles O33: the fetch reads the element in the state's context, and the engine runs it. -/
theorem stepRunsTheDecodedElement : Obligations.StepRunsTheDecodedElement := by
  intro s f c i cur hops hp hctx hal hdec _ hsink
  rw [step_engine hops]
  exact State.engine_elem hp (State.fetch_elem.2 ⟨fun h => h.2 (hal h.1), c, cur, hctx, hdec, rfl⟩) hsink

end Sys2Proof
end

section
/-! PROOFS. Lengths and distances (30_encoding.md R99, R100; 42_block_engine.md R214, R223, R239), settling O20 and O24: the bases that
the meanings write out are those of the banded formulas. -/

namespace Sys2Proof.Machine

variable {s : State} {i : Instr} {sym n x distance : Nat} {length : BitVec 9} {e : ErrCode}

/-- A length symbol keeps its base plus its extra bits (R99, R214). -/
theorem exec_length (h : i.llSymbol = some (sym, n, x)) (h1 : 257 ≤ sym) (h2 : sym ≤ 285)
    (hp : s.point = .element .llSym) :
    exec i s = .next { s with mid := .dist (BitVec.ofNat 9 (lengthBase sym + x)) } := by
  cases i with
  | lit b =>
    cases h
    have := b.isLt
    omega
  | eob | llInvalid => cases h; omega
  | _ => cases h <;> exact State.lengthSymbol_next.2 ⟨hp, rfl⟩

/-- The extra bits and the length of each symbol are those of its band (R99). -/
theorem length_formula (h1 : 257 ≤ sym) (h2 : sym ≤ 285) (hx : x < 2 ^ llExtra sym) :
    llExtra sym = (if 265 ≤ sym ∧ sym ≤ 284 then (sym - 261) >>> 2 else 0) ∧
    lengthBase sym + x = (if sym ≤ 264 then sym - 254
      else if sym ≤ 284 then 3 + ((4 + (sym - 261) % 4) <<< ((sym - 261) >>> 2)) + x else 258) ∧
    3 ≤ lengthBase sym + x ∧ lengthBase sym + x ≤ 258 := by
  interval_cases sym <;> simp [llExtra, lengthBase] at hx ⊢ <;> omega

/-- Settles O20, by the formula of each band. -/
theorem lengthElementsFollowTheBandedFormula : Obligations.LengthElementsFollowTheBandedFormula := by
  intro i s sym n x h h1 h2 hp
  obtain ⟨-, rfl, hx⟩ := llInstr_of_llSymbol h
  obtain ⟨hextra, hlength, hmin, hmax⟩ := length_formula h1 h2 hx
  exact ⟨hextra, lengthBase sym + x, hlength, hmin, hmax, exec_length h h1 h2 hp⟩

/-- A distance symbol stands for its base plus its extra bits (R100, R223). -/
theorem exec_distance (h : i.dSymbol = some (sym, n, x)) (h29 : sym ≤ 29) :
    exec i s = s.distanceSymbol (BitVec.ofNat 16 (distanceBase sym + x)) := by
  cases i with
  | distInvalid => cases h; omega
  | _ => cases h <;> rfl

/-- The extra bits and the distance of each symbol are those of R100. -/
theorem distance_formula (h29 : sym ≤ 29) (hx : x < 2 ^ distExtra sym) :
    distExtra sym = (if sym ≤ 3 then 0 else (sym >>> 1) - 1) ∧
    distanceBase sym + x = (if sym ≤ 3 then sym + 1 else 1 + ((2 + sym % 2) <<< ((sym >>> 1) - 1)) + x) ∧
    1 ≤ distanceBase sym + x ∧ distanceBase sym + x ≤ 32768 := by
  interval_cases sym <;> simp [distExtra, distanceBase] at hx ⊢ <;> omega

/-- STATUS after a failure shows the code, FAILED and DONE, not BUSY (R36, R327). -/
theorem State.status_failed (h : s.phase = .failed) : s.status.extractLsb' 0 8 = errCode s.err ++ 0b0010#4 := by
  refine BitVec.eq_of_getLsbD_eq fun k hk => ?_
  simp only [State.status, h, BitVec.getLsbD_extractLsb', BitVec.getLsbD_append]
  interval_cases k <;> simp [Phase.finished, Phase.busy]

/-- A `raise` leaves determined what R326 says it does. -/
theorem State.raise_failsWith (s : State) (e : ErrCode) : FailsWith s (s.raise e) e where
  failed := ⟨rfl, rfl⟩
  status := State.status_failed rfl
  result := ⟨rfl, rfl, rfl, rfl, rfl⟩
  host := ⟨rfl, rfl, rfl, rfl, rfl⟩
  control := ⟨rfl, rfl, rfl⟩
  place := rfl

theorem State.point_dist (hb : s.phase = .body) (hm : s.mid = .dist length) : s.point = .element .dSym := by
  simp [State.point, hb, hm]

/-- The back-reference check (R239): of a non-zero length and a distance in 1 to 32768 only a distance beyond `total_out` fails. -/
theorem State.distanceSymbol_dist (hb : s.phase = .body) (hm : s.mid = .dist length) (hl : length ≠ 0#9)
    (h1 : 1 ≤ distance) (h2 : distance ≤ 32768) :
    s.distanceSymbol (BitVec.ofNat 16 distance) =
      .next (if s.totalOut < distance then s.raise .eBackref else s.copying length distance) := by
  have hd : (BitVec.ofNat 16 distance).toNat = distance := by rw [BitVec.toNat_ofNat, Nat.mod_eq_of_lt (by omega)]
  have hd0 : BitVec.ofNat 16 distance ≠ 0#16 := fun h => by simp [h] at hd; omega
  have hfail : s.totalOut < distance ↔
      length = 0#9 ∨ BitVec.ofNat 16 distance = 0#16 ∨ s.totalOut < (BitVec.ofNat 16 distance).toNat := by
    simp [hl, hd0, hd]
  exact State.distanceSymbol_next.2 ⟨length, hm, State.point_dist hb hm, if_congr hfail rfl rfl⟩

/-- Settles O24, by the formula of R100 and the back-reference check. -/
theorem backReferencesAreChecked : Obligations.BackReferencesAreChecked := by
  intro i s length sym n x h h29 hb hm hl
  obtain ⟨-, rfl, hx⟩ := dInstr_of_dSymbol h
  obtain ⟨hextra, hdistance, hmin, hmax⟩ := distance_formula h29 hx
  rw [exec_distance h h29, State.distanceSymbol_dist hb hm hl hmin hmax]
  exact ⟨hextra, distanceBase sym + x, hdistance, hmin, hmax,
    fun hlt => ⟨_, rfl, by rw [if_pos hlt]; exact s.raise_failsWith .eBackref⟩, fun hle => by rw [if_neg hle.not_gt]⟩

end Sys2Proof.Machine
end

section
/-! PROOFS. Where an element is due its meaning completes, elsewhere it refuses (30_encoding.md R91, notes/assumptions/9.md), settling
O30. -/

namespace Sys2Proof.Machine

variable {s : State} {i : Instr}

/-- The meaning of a code-length symbol is what it appends (R177 to R180). -/
theorem exec_clSym (h : i.format = .clSym) : exec i s = s.codeLengths (appended i) := by
  cases i with
  | clLen | clCopy | clZero3 | clZero11 => rfl
  | _ => cases h

/-! Where the format is not due (log 9). -/

theorem State.distanceSymbol_notDue (h : s.point ≠ .element .dSym) (distance : BitVec 16) :
    s.distanceSymbol distance = .refused .notDue := by
  unfold State.distanceSymbol
  split
  · exact State.whenDue_notDue h
  · rfl

theorem State.codeLengths_notDue (h : s.point ≠ .element .clSym)
    (produce : List (BitVec 4) → Option (List (BitVec 4))) : s.codeLengths produce = .refused .notDue := by
  unfold State.codeLengths
  split
  · exact State.whenDue_notDue h
  · rfl

theorem execClLens_notDue (h : s.point ≠ .element .clLens) (lens : List (BitVec 3)) :
    execClLens lens s = .refused .notDue := by
  unfold execClLens
  split
  · rw [State.whenDue_notDue h, ite_self]
  · rfl

theorem exec_notDue (h : s.point ≠ .element i.format) : exec i s = .refused .notDue := by
  cases i with
  | clLens lens => exact execClLens_notDue h lens
  | clLen | clCopy | clZero3 | clZero11 => exact (exec_clSym rfl).trans (State.codeLengths_notDue h _)
  | dist0 | dist1 | dist2 | dist3 | dist4 | dist5 | dist6 | dist7 | dist8 | dist9 | dist10 | dist11 | dist12 | dist13
  | dist14 | dist15 | dist16 | dist17 | dist18 | dist19 | dist20 | dist21 | dist22 | dist23 | dist24 | dist25 | dist26
  | dist27 | dist28 | dist29 => exact State.distanceSymbol_notDue h _
  | _ => exact State.whenDue_notDue h

/-! Where it is due. -/

theorem State.whenDue_completes {f : Format} {u : State} (h : s.point = .element f) :
    ∃ t, s.whenDue f (.next u) = .next t :=
  ⟨u, State.whenDue_due h⟩

theorem State.distanceSymbol_completes (h : s.point = .element .dSym) (distance : BitVec 16) :
    ∃ t, s.distanceSymbol distance = .next t := by
  obtain ⟨-, length, hm⟩ := State.point_element h
  exact ⟨_, State.distanceSymbol_next.2 ⟨length, hm, h, rfl⟩⟩

theorem State.codeLengths_completes (h : s.point = .element .clSym)
    (produce : List (BitVec 4) → Option (List (BitVec 4))) : ∃ t, s.codeLengths produce = .next t := by
  obtain ⟨-, hlit, hdist, tab, lens, hm⟩ := State.point_element h
  simp only [State.codeLengths, hm]
  exact State.whenDue_completes h

/-- CLLENS completes with as many fields as DYNHDR announced (R175). -/
theorem execClLens_completes (h : s.point = .element .clLens) {lens : List (BitVec 3)}
    (hlen : ∀ hlit hdist hclen, s.mid = .clLens hlit hdist hclen → lens.length = ncl hclen) :
    ∃ t, execClLens lens s = .next t := by
  obtain ⟨-, hlit, hdist, hclen, hm⟩ := State.point_element h
  simp only [execClLens, hm, hlen _ _ _ hm, if_true]
  exact State.whenDue_completes h

theorem exec_completes (h : s.point = .element i.format)
    (hlen : ∀ lens hlit hdist hclen, i = .clLens lens → s.mid = .clLens hlit hdist hclen → lens.length = ncl hclen) :
    ∃ t, exec i s = .next t := by
  cases i with
  | clLens lens => exact execClLens_completes h fun hlit hdist hclen => hlen lens hlit hdist hclen rfl
  | clLen | clCopy | clZero3 | clZero11 =>
    rw [exec_clSym rfl]
    exact State.codeLengths_completes h _
  | dist0 | dist1 | dist2 | dist3 | dist4 | dist5 | dist6 | dist7 | dist8 | dist9 | dist10 | dist11 | dist12 | dist13
  | dist14 | dist15 | dist16 | dist17 | dist18 | dist19 | dist20 | dist21 | dist22 | dist23 | dist24 | dist25 | dist26
  | dist27 | dist28 | dist29 => exact State.distanceSymbol_completes h _
  | _ => exact State.whenDue_completes h

/-- Settles O30, by the context check of every meaning. -/
theorem dueElementsCompleteAndOthersAreRefused : Obligations.DueElementsCompleteAndOthersAreRefused :=
  fun _ _ => ⟨exec_notDue, exec_completes⟩

end Sys2Proof.Machine
end

section
/-! PROOFS. The codes of the fixed tables (30_encoding.md R101), settling O48, and words written out from the spec, settling O35. -/

namespace Sys2Proof.Machine

variable {s : Nat}

/-- The entry that R101 lists for a literal/length symbol. -/
def fixedEntry (s : Nat) : Entry :=
  if s < 144 then ⟨8, 0x30 + s, s⟩
  else if s < 256 then ⟨9, 0x190 + (s - 144), s⟩
  else if s < 280 then ⟨7, s - 256, s⟩
  else ⟨8, 0xC0 + (s - 280), s⟩

theorem fixedEntry_sym (s : Nat) : (fixedEntry s).sym = s := by
  unfold fixedEntry
  repeat' split
  all_goals rfl

theorem fixedLL_eq : fixedLL = (List.range 288).map fixedEntry := by decide +kernel

theorem fixedD_eq : fixedD = (List.range 32).map fun d => ⟨5, d, d⟩ := by rfl

theorem codeBits_fixedLL (h : s < 288) : codeBits fixedLL s = some (entryBits (fixedEntry s)) := by
  have hsyms : (fixedLL.map Entry.sym).Nodup := by
    have hcomp : Entry.sym ∘ fixedEntry = id := funext fixedEntry_sym
    rw [fixedLL_eq, List.map_map, hcomp, List.map_id]
    exact List.nodup_range
  have hmem : fixedEntry s ∈ fixedLL := by
    rw [fixedLL_eq]
    exact List.mem_map_of_mem (List.mem_range.2 h)
  simpa only [fixedEntry_sym] using codeBits_entry hsyms hmem

theorem codeBits_fixedD (h : s < 32) : codeBits fixedD s = some (msbBits 5 s) := by
  have hsyms : (fixedD.map Entry.sym).Nodup := by
    rw [fixedD_eq, List.map_map]
    exact List.nodup_range.map fun _ _ h => h
  have hmem : ⟨5, s, s⟩ ∈ fixedD := by
    rw [fixedD_eq]
    exact List.mem_map_of_mem (List.mem_range.2 h)
  exact codeBits_entry hsyms hmem

/-- Settles O48: each table is the list of entries of R101, and every symbol has one. -/
theorem fixedCodesAreThoseOfTheSpec : Obligations.FixedCodesAreThoseOfTheSpec := by
  refine ⟨fun s hs => ?_, fun s hs => ?_, fun s hs => ?_, fun s hs => ?_, fun d hd => codeBits_fixedD hd⟩
  · rw [codeBits_fixedLL (by omega), fixedEntry, if_pos hs, entryBits]
  · rw [codeBits_fixedLL (by omega), fixedEntry, if_neg (by omega), if_pos (by omega), entryBits, Nat.add_sub_cancel_left]
  · rw [codeBits_fixedLL (by omega), fixedEntry, if_neg (by omega), if_neg (by omega), if_pos (by omega), entryBits,
      Nat.add_sub_cancel_left]
  · rw [codeBits_fixedLL (by omega), fixedEntry, if_neg (by omega), if_neg (by omega), if_neg (by omega), entryBits,
      Nat.add_sub_cancel_left]

/-- Settles O35, by reading each word. -/
theorem wordsOfTheSpecDecode : Obligations.WordsOfTheSpecDecode := by
  refine ⟨rfl, rfl, rfl, rfl, rfl, ?_, ?_, ?_, rfl, rfl⟩
  · rw [fixedLL_eq]; rfl
  · rw [fixedLL_eq]; rfl
  · rw [fixedD_eq]; rfl

end Sys2Proof.Machine
end

section
/-! PROOFS. A source that another one follows bit by bit: what is read from the first is read from the second
(40_bitstream_reader.md R140, R141); the input cursor follows the bits that lie ahead of it (R148). -/

namespace Sys2Proof

open Machine

variable {σ τ : Type} {src : Source σ} {src' : Source τ} {R : σ → τ → Prop} {s s' : σ} {u : τ} {i : Instr}

/-- Each bit of `src` is the next bit of `src'` too, at every two places that `R` relates. -/
def Machine.Source.FollowedBy (src : Source σ) (src' : Source τ) (R : σ → τ → Prop) : Prop :=
  ∀ s b s' u, src.bit s = some (b, s') → R s u → ∃ u', src'.bit u = some (b, u') ∧ R s' u'

namespace Machine.Source.FollowedBy

theorem eatBits (h : src.FollowedBy src' R) {n v : Nat} (hr : Machine.eatBits src n s = some (v, s')) (hu : R s u) :
    ∃ u', Machine.eatBits src' n u = some (v, u') ∧ R s' u' := by
  induction n generalizing s u v with
  | zero => cases hr; exact ⟨u, rfl, hu⟩
  | succ n ih =>
    simp only [eatBits_succ, Option.bind_eq_some_iff, Option.map_eq_some_iff, Prod.mk.injEq] at hr ⊢
    obtain ⟨⟨b, s1⟩, hbit, ⟨w, s2⟩, hrest, hv, rfl⟩ := hr
    obtain ⟨u1, hbit', hu1⟩ := h _ _ _ _ hbit hu
    obtain ⟨u2, hrest', hu2⟩ := ih hrest hu1
    exact ⟨u2, ⟨_, hbit', _, hrest', hv, rfl⟩, hu2⟩

theorem eatFields (h : src.FollowedBy src' R) {n k : Nat} {vs : List Nat}
    (hr : Machine.eatFields src n k s = some (vs, s')) (hu : R s u) :
    ∃ u', Machine.eatFields src' n k u = some (vs, u') ∧ R s' u' := by
  induction k generalizing s u vs with
  | zero => cases hr; exact ⟨u, rfl, hu⟩
  | succ k ih =>
    obtain ⟨v, s1, hfield, tail, hrest, rfl⟩ := eatFields_succ.1 hr
    obtain ⟨u1, hfield', hu1⟩ := h.eatBits hfield hu
    obtain ⟨u2, hrest', hu2⟩ := ih hrest hu1
    exact ⟨u2, eatFields_succ.2 ⟨v, u1, hfield', tail, hrest', rfl⟩, hu2⟩

theorem walk (h : src.FollowedBy src' R) {t : Table} {fuel len code sym : Nat}
    (hr : Machine.walk src t fuel len code s = some (sym, s')) (hu : R s u) :
    ∃ u', Machine.walk src' t fuel len code u = some (sym, u') ∧ R s' u' := by
  induction fuel generalizing len code s u with
  | zero => cases hr
  | succ fuel ih =>
    unfold Machine.walk at hr
    split at hr
    · cases hr
    next hbit =>
      obtain ⟨u1, hbit', hu1⟩ := h _ _ _ _ hbit hu
      split at hr
      next hfound => cases hr; exact ⟨u1, by simp only [Machine.walk, hbit', hfound], hu1⟩
      next hnone =>
        obtain ⟨u2, hrest', hu2⟩ := ih hr hu1
        exact ⟨u2, by simp only [Machine.walk, hbit', hnone, hrest'], hu2⟩

theorem decodeCoded (h : src.FollowedBy src' R) {t : Table} {extra : Nat → Nat} {instr : Nat → Nat → Option Instr}
    (hr : Sys2Proof.decodeCoded src t extra instr s = .elem i s') (hu : R s u) :
    ∃ u', Sys2Proof.decodeCoded src' t extra instr u = .elem i u' ∧ R s' u' := by
  obtain ⟨hne, sym, s1, hsym, x, hx, hi⟩ := decodeCoded_elem.1 hr
  obtain ⟨u1, hsym', hu1⟩ := h.walk hsym hu
  obtain ⟨u2, hx', hu2⟩ := h.eatBits hx hu1
  exact ⟨u2, decodeCoded_elem.2 ⟨hne, sym, u1, hsym', x, hx', hi⟩, hu2⟩

/-- Every element but a raw byte, which is not read bit by bit (R143), is read from the other source too. -/
theorem decode (h : src.FollowedBy src' R) {c : Ctx} (hc : c ≠ .rawByte) (hr : Sys2Proof.decode src c s = .elem i s')
    (hu : R s u) : ∃ u', Sys2Proof.decode src' c u = .elem i u' ∧ R s' u' := by
  cases c with
  | zhdr =>
    obtain ⟨_, _, h1, _, h2, hi⟩ := readZhdr_some.1 (Decoded.ofOption_elem.1 hr)
    obtain ⟨u1, h1', hu1⟩ := h.eatBits h1 hu
    obtain ⟨u2, h2', hu2⟩ := h.eatBits h2 hu1
    exact ⟨u2, Decoded.ofOption_elem.2 (readZhdr_some.2 ⟨_, u1, h1', _, h2', hi⟩), hu2⟩
  | blkHdr =>
    obtain ⟨_, _, h1, _, h2, hi⟩ := readBlkHdr_some.1 (Decoded.ofOption_elem.1 hr)
    obtain ⟨u1, h1', hu1⟩ := h.eatBits h1 hu
    obtain ⟨u2, h2', hu2⟩ := h.eatBits h2 hu1
    exact ⟨u2, Decoded.ofOption_elem.2 (readBlkHdr_some.2 ⟨_, u1, h1', _, h2', hi⟩), hu2⟩
  | storedHdr =>
    obtain ⟨_, _, h1, _, h2, hi⟩ := readStoredHdr_some.1 (Decoded.ofOption_elem.1 hr)
    obtain ⟨u1, h1', hu1⟩ := h.eatBits h1 hu
    obtain ⟨u2, h2', hu2⟩ := h.eatBits h2 hu1
    exact ⟨u2, Decoded.ofOption_elem.2 (readStoredHdr_some.2 ⟨_, u1, h1', _, h2', hi⟩), hu2⟩
  | dynHdr =>
    obtain ⟨_, _, h1, _, _, h2, _, h3, hi⟩ := readDynHdr_some.1 (Decoded.ofOption_elem.1 hr)
    obtain ⟨u1, h1', hu1⟩ := h.eatBits h1 hu
    obtain ⟨u2, h2', hu2⟩ := h.eatBits h2 hu1
    obtain ⟨u3, h3', hu3⟩ := h.eatBits h3 hu2
    exact ⟨u3, Decoded.ofOption_elem.2 (readDynHdr_some.2 ⟨_, u1, h1', _, u2, h2', _, h3', hi⟩), hu3⟩
  | clLens n =>
    obtain ⟨_, h1, hi⟩ := readClLens_some.1 (Decoded.ofOption_elem.1 hr)
    obtain ⟨u1, h1', hu1⟩ := h.eatFields h1 hu
    exact ⟨u1, Decoded.ofOption_elem.2 (readClLens_some.2 ⟨_, h1', hi⟩), hu1⟩
  | rawByte => exact absurd rfl hc
  | ztrailer =>
    obtain ⟨_, h1, hi⟩ := readZtrailer_some.1 (Decoded.ofOption_elem.1 hr)
    obtain ⟨u1, h1', hu1⟩ := h.eatBits h1 hu
    exact ⟨u1, Decoded.ofOption_elem.2 (readZtrailer_some.2 ⟨_, h1', hi⟩), hu1⟩
  | clSym | llSym | dSym => exact h.decodeCoded hr hu

end Machine.Source.FollowedBy

namespace Machine

variable {fetch : Nat → Option Byte} {c : Cursor} {b : Bool} {bits rest : List Bool}

/-- `NextBit` takes the input bit at the cursor's address and moves the address by one (R140, R148). -/
theorem nextBit_inBit (hc : CursorOk fetch c) (h : inBit fetch c.bitAddr = some b) :
    ∃ c', nextBit fetch c = some (b, c') ∧ CursorOk fetch c' ∧ c'.bitAddr = c.bitAddr + 1 := by
  obtain ⟨p, j, byte⟩ := c
  by_cases hj : j = 0#3
  · subst hj
    have haddr : Cursor.bitAddr ⟨p, 0#3, byte⟩ = 8 * p := rfl
    rw [haddr, inBit, Nat.mul_div_cancel_left p (by decide), Nat.mul_mod_right, Option.map_eq_some_iff] at h
    obtain ⟨byte', hf, rfl⟩ := h
    refine ⟨⟨p + 1, 1#3, byte'⟩, by rw [nextBit_fetch, hf]; rfl, fun _ => ⟨by simp, hf⟩, ?_⟩
    simp [Cursor.bitAddr]
  · obtain ⟨hp, hf⟩ := hc hj
    have hp : 1 ≤ p := hp
    have hjlt : j.toNat < 8 := j.isLt
    have haddr : Cursor.bitAddr ⟨p, j, byte⟩ = 8 * (p - 1) + j.toNat := if_neg hj
    rw [haddr, inBit, show (8 * (p - 1) + j.toNat) / 8 = p - 1 by omega, show (8 * (p - 1) + j.toNat) % 8 = j.toNat by omega,
      hf] at h
    cases h
    refine ⟨_, nextBit_buffered fetch _ hj, fun _ => ⟨hp, hf⟩, ?_⟩
    rw [haddr]
    by_cases hlast : j + 1#3 = 0#3
    · have : j.toNat = 7 := by bv_omega
      simp only [Cursor.bitAddr, hlast, if_true]
      omega
    · have : (j + 1#3).toNat = j.toNat + 1 := by bv_omega
      simp only [Cursor.bitAddr, hlast, if_false]
      omega

/-- The input has these bits from the cursor on (R148). -/
def BitsAhead (fetch : Nat → Option Byte) (bits : List Bool) (c : Cursor) : Prop :=
  CursorOk fetch c ∧ ∀ k < bits.length, inBit fetch (c.bitAddr + k) = bits[k]?

/-- The cursor reads the bits ahead of it as a list of them is read. -/
theorem listSource_followedBy (fetch : Nat → Option Byte) :
    listSource.FollowedBy (cursorSource fetch) (BitsAhead fetch) := by
  rintro bits b rest c hbit ⟨hok, hahead⟩
  cases bits with
  | nil => cases hbit
  | cons b bits =>
    cases hbit
    obtain ⟨c', hnext, hok', haddr⟩ := nextBit_inBit hok (hahead 0 (by simp))
    refine ⟨c', hnext, hok', fun k hk => ?_⟩
    rw [haddr, Nat.add_assoc, Nat.add_comm 1]
    exact hahead (k + 1) (by simpa using hk)

end Machine

end Sys2Proof
end

section
/-! PROOFS. A placed word (notes/assumptions/13.md, 14.md): its element is due and its bits lie ahead of the cursor, settling O59. -/

namespace Sys2Proof

open Machine

variable {s : State} {c : Ctx} {i : Instr} {bits rest : List Bool} {nbits w k n : Nat}

namespace Machine

theorem lsbValue_testBit (bits : List Bool) (k : Nat) : (lsbValue bits).testBit k = bits[k]?.getD false := by
  induction bits generalizing k with
  | nil => simp
  | cons b bits ih =>
    have hdiv : (b.toNat + 2 * lsbValue bits) / 2 = lsbValue bits := by cases b <;> simp; omega
    cases k with
    | zero => cases b <;> simp
    | succ k => rw [lsbValue_cons, Nat.testBit_succ, hdiv, ih, List.getElem?_cons_succ]

@[simp] theorem packBits_length (n : Nat) (bits : List Bool) : (packBits n bits).length = n := by
  induction n generalizing bits with
  | zero => rfl
  | succ n ih => simp [packBits, ih]

/-- Byte `k` of packed bits has the bits from `8 * k` on, bit 0 first (R68). -/
theorem packBits_getElem (n : Nat) (bits : List Bool) (h : k < (packBits n bits).length) :
    (packBits n bits)[k] = BitVec.ofNat 8 (lsbValue ((bits.drop (8 * k)).take 8)) := by
  induction n generalizing bits k with
  | zero => simp at h
  | succ n ih =>
    cases k with
    | zero => rfl
    | succ k =>
      rw [show 8 * (k + 1) = 8 + 8 * k by omega, ← List.drop_drop]
      exact ih (bits.drop 8) (by simpa using h)

theorem packBits_getLsbD (n : Nat) (bits : List Bool) (h : k / 8 < (packBits n bits).length) :
    (packBits n bits)[k / 8].getLsbD (k % 8) = bits[k]?.getD false := by
  have hk : k % 8 < 8 := by omega
  rw [packBits_getElem, BitVec.getLsbD_ofNat, lsbValue_testBit, List.getElem?_take_of_lt hk, List.getElem?_drop,
    Nat.div_add_mod]
  simp [hk]

/-! Bits placed in `IN` (log 14). -/

@[simp] theorem State.placeBits_cur (s : State) (bits : List Bool) : (s.placeBits bits).cur = s.cur.align := rfl

/-- The bytes placed are those of the input from the cursor on. -/
theorem State.placeBits_inByte (h : Mem.wf s.input) (hk : k < (packBits ((bits.length + 7) / 8) bits).length) :
    (s.placeBits bits).inByte (s.cur.inPos + k) = some (packBits ((bits.length + 7) / 8) bits)[k] := by
  have hlt : s.cur.inPos + k < (s.placeBits bits).inLen := lt_max_of_lt_right (Nat.add_lt_add_left hk _)
  rw [State.inByte, if_pos hlt]
  exact Mem.read_writeBytes s.input h _ _ k hk

theorem State.placeBits_ahead (h : Mem.wf s.input) (bits : List Bool) :
    BitsAhead (s.placeBits bits).inByte bits (s.placeBits bits).cur := by
  refine ⟨fun hc => absurd rfl hc, fun k hk => ?_⟩
  have haddr : (s.placeBits bits).cur.bitAddr = 8 * s.cur.inPos := rfl
  have hbyte : k / 8 < (packBits ((bits.length + 7) / 8) bits).length := by
    rw [packBits_length]
    omega
  rw [haddr, inBit, Nat.mul_add_div (by decide), Nat.mul_add_mod, State.placeBits_inByte h hbyte, Option.map_some,
    packBits_getLsbD, List.getElem?_eq_getElem hk, Option.getD_some]

/-- A raw byte placed is the one at `in_pos` (R143). -/
theorem State.placeBits_byte (h : Mem.wf s.input) (b : Byte) (rest : List Bool) :
    (s.placeBits (lsbBits 8 b.toNat ++ rest)).inByte s.cur.inPos = some b := by
  have hpos : 0 < (packBits (((lsbBits 8 b.toNat ++ rest).length + 7) / 8) (lsbBits 8 b.toNat ++ rest)).length := by
    rw [packBits_length, List.length_append, lsbBits_length]
    omega
  have hread := State.placeBits_inByte h hpos
  rwa [packBits_getElem, Nat.mul_zero, List.drop_zero, List.take_left' (lsbBits_length 8 _), lsbValue_lsbBits b.isLt,
    BitVec.ofNat_toNat, BitVec.setWidth_eq] at hread

/-- The decoder reads placed bits at the cursor as it reads them from a list. -/
theorem State.placeBits_decode (h : Mem.wf s.input) (hdec : decode listSource c bits = .elem i rest) :
    ∃ cur, decode (s.placeBits bits).source c (s.placeBits bits).cur = .elem i cur := by
  by_cases hc : c = .rawByte
  · subst hc
    obtain ⟨b, hb, rfl⟩ := readRawByte_some.1 (Decoded.ofOption_elem.1 hdec)
    obtain rfl := byte_list.1 hb
    exact ⟨_, Decoded.ofOption_elem.2 (readRawByte_some.2 ⟨b, nextRaw_some.2 ⟨State.placeBits_byte h b rest, rfl⟩, rfl⟩)⟩
  · obtain ⟨cur, hcur, -⟩ := (listSource_followedBy _).decode hc hdec (State.placeBits_ahead h bits)
    exact ⟨cur, hcur⟩

/-! A context's element made due (R91). -/

theorem State.placeAt_point (s : State) (c : Ctx) : (s.placeAt c).point = .element c.format := by
  cases c <;> rfl

theorem State.placeAt_ctx (s : State) (hc : ∀ n, c = .clLens n → 4 ≤ n ∧ n ≤ 19) :
    (s.placeAt c).ctx c.format = some c := by
  cases c with
  | clLens n =>
    obtain ⟨h4, h19⟩ := hc n rfl
    have : ncl (BitVec.ofNat 4 (n - 4)) = n := by rw [ncl, BitVec.toNat_ofNat]; omega
    simp [State.placeAt, State.ctx, Ctx.format, this]
  | clSym t noPrevious => cases noPrevious <;> rfl
  | _ => rfl

theorem State.placeAt_ready (s : State) (c : Ctx) :
    (s.placeAt c).hostOps = [] ∧ (s.placeAt c).sinkReady = true ∧ (s.placeAt c).input = s.input := by
  cases c <;> exact ⟨rfl, rfl, rfl⟩

end Machine

/-- A word of the opcode table is read as CLLENS with all 19 fields only. -/
theorem tableRead_clLens (h : tableRead nbits w = some (.clLens n, bits)) : n = 19 := by
  unfold tableRead at h
  repeat' split at h
  all_goals simp at h
  exact h.1.symm

theorem decodeTableWord_some (h : decodeTableWord nbits w = some i) :
    ∃ c bits rest, tableRead nbits w = some (c, bits) ∧ decode listSource c (tableBits bits) = .elem i rest := by
  unfold decodeTableWord at h
  split at h
  · cases h
  next c bits hread =>
    split at h
    next j rest hdec => cases h; exact ⟨c, bits, rest, hread, hdec⟩
    · cases h

/-- Settles O59: placing makes the element of the word due with its bits ahead of the cursor, and the step fetches and runs it. -/
theorem thePlacedTableWordIsTheOneFetched : Obligations.ThePlacedTableWordIsTheOneFetched := by
  intro s nbits w i hwf h p
  obtain ⟨c, bits, rest, hread, hdec⟩ := decodeTableWord_some h
  obtain ⟨hops, hsink, hinput⟩ := s.placeAt_ready c
  have hp : p = (s.placeAt c).placeBits (tableBits bits) := by simp only [p, State.withFetchWord, hread]
  have hc : ∀ n, c = .clLens n → 4 ≤ n ∧ n ≤ 19 := by
    rintro n rfl
    simp [tableRead_clLens hread]
  have hfmt : i.format = c.format := decode_format hdec
  have hpoint : p.point = .element i.format := by
    rw [hp, hfmt]
    exact s.placeAt_point c
  have hctx : p.ctx i.format = some c := by
    rw [hp, hfmt]
    exact s.placeAt_ctx hc
  obtain ⟨cur, hcur⟩ := State.placeBits_decode (hinput.symm ▸ hwf) hdec
  rw [← hp] at hcur
  refine ⟨c, cur, hpoint, hctx, hcur, ?_⟩
  exact stepRunsTheDecodedElement p i.format c i cur (by rw [hp]; exact hops) hpoint hctx (fun _ => by rw [hp]; rfl) hcur
    (decode_wellFormed hc hdec) fun _ => by rw [hp]; exact hsink

end Sys2Proof
end

section
/-! PROOFS. The reader's operations (40_bitstream_reader.md), settling O39 to O42: a field on a list of bits, and the bit address of the
input cursor under every read. -/

namespace Sys2Proof.Machine

variable {fetch : Nat → Option Byte} {c c' : Cursor} {b : Bool} {n v : Nat}

/-- Settles O39: what is read is the number of the first `n` bits, and a list with fewer has no such prefix. -/
theorem fieldsAreReadLeastSignificantBitFirst : Obligations.FieldsAreReadLeastSignificantBitFirst := by
  refine fun n bits => ⟨fun hn => ?_, fun hn => ?_⟩
  · have hlen : (bits.take n).length = n := List.length_take_of_le hn
    refine ⟨lsbValue (bits.take n), eatBits_listSource.2 ⟨_, hlen, rfl, (List.take_append_drop n bits).symm⟩,
      (lsbValue_lt _).trans_eq (by rw [hlen]), fun i hi => ?_⟩
    rw [lsbValue_testBit, List.getElem?_take_of_lt hi, List.getElem?_eq_getElem (hi.trans_le hn), Option.getD_some]
  · refine Option.eq_none_iff_forall_ne_some.2 fun ⟨v, rest⟩ h => ?_
    obtain ⟨used, rfl, -, rfl⟩ := eatBits_listSource.1 h
    rw [List.length_append] at hn
    omega

/-! The cursor's bit address (R21, R148). -/

/-- The address of a cursor at a byte boundary. -/
theorem Cursor.bitAddr_of_aligned (h : c.bitIdx = 0#3) : c.bitAddr = 8 * c.inPos := if_pos h

/-- `NextBit` has nothing to give exactly where the input has no bit at the cursor's address (R140, R147). -/
theorem nextBit_eq_none (hc : CursorOk fetch c) : nextBit fetch c = none ↔ inBit fetch c.bitAddr = none := by
  constructor
  · intro h
    refine Option.eq_none_iff_forall_ne_some.2 fun b hb => ?_
    obtain ⟨c', hnext, -⟩ := nextBit_inBit hc hb
    cases h.symm.trans hnext
  · obtain ⟨p, j, byte⟩ := c
    by_cases hj : j = 0#3
    · subst hj
      have haddr : Cursor.bitAddr ⟨p, 0#3, byte⟩ = 8 * p := rfl
      simp [haddr, inBit, nextBit_fetch]
    · obtain ⟨hp, hf⟩ := hc hj
      have hp : 1 ≤ p := hp
      have hjlt : j.toNat < 8 := j.isLt
      have haddr : Cursor.bitAddr ⟨p, j, byte⟩ = 8 * (p - 1) + j.toNat := if_neg hj
      rw [haddr, inBit, show (8 * (p - 1) + j.toNat) / 8 = p - 1 by omega, hf]
      simp

/-- A bit that `NextBit` gives is the input bit at the cursor's address, and the address moves by one (R140, R148). -/
theorem nextBit_some (hc : CursorOk fetch c) (h : nextBit fetch c = some (b, c')) :
    inBit fetch c.bitAddr = some b ∧ CursorOk fetch c' ∧ c'.bitAddr = c.bitAddr + 1 := by
  cases hin : inBit fetch c.bitAddr with
  | none => cases ((nextBit_eq_none hc).2 hin).symm.trans h
  | some b' =>
    obtain ⟨c1, hnext, hok, haddr⟩ := nextBit_inBit hc hin
    cases h.symm.trans hnext
    exact ⟨rfl, hok, haddr⟩

/-- The bit read first is bit 0 of the field, the others follow above it (R141). -/
theorem testBit_field (b : Bool) (v k : Nat) :
    (b.toNat + 2 * v).testBit 0 = b ∧ (b.toNat + 2 * v).testBit (k + 1) = v.testBit k := by
  have hdiv : (b.toNat + 2 * v) / 2 = v := by cases b <;> simp; omega
  exact ⟨by cases b <;> simp, by rw [Nat.testBit_succ, hdiv]⟩

theorem eatBits_cursor_some (hc : CursorOk fetch c) (h : eatBits (cursorSource fetch) n c = some (v, c')) :
    CursorOk fetch c' ∧ c'.bitAddr = c.bitAddr + n ∧ ∀ i < n, inBit fetch (c.bitAddr + i) = some (v.testBit i) := by
  induction n generalizing c v with
  | zero => cases h; exact ⟨hc, rfl, by simp⟩
  | succ n ih =>
    simp only [eatBits_succ, Option.bind_eq_some_iff, Option.map_eq_some_iff, Prod.mk.injEq] at h
    obtain ⟨⟨b, c1⟩, hbit, ⟨w, _⟩, hrest, rfl, rfl⟩ := h
    obtain ⟨hin, hc1, haddr1⟩ := nextBit_some hc hbit
    obtain ⟨hok, haddr, hbits⟩ := ih hc1 hrest
    refine ⟨hok, by omega, fun i hi => ?_⟩
    cases i with
    | zero => rw [(testBit_field b w 0).1]; exact hin
    | succ k =>
      rw [(testBit_field b w k).2, ← hbits k (by omega), haddr1, Nat.add_assoc, Nat.add_comm 1]

theorem eatBits_cursor_none (hc : CursorOk fetch c) (h : eatBits (cursorSource fetch) n c = none) :
    ∃ i < n, inBit fetch (c.bitAddr + i) = none := by
  induction n generalizing c with
  | zero => cases h
  | succ n ih =>
    rw [eatBits_succ, Option.bind_eq_none_iff] at h
    cases hbit : nextBit fetch c with
    | none => exact ⟨0, by omega, (nextBit_eq_none hc).1 hbit⟩
    | some p =>
      obtain ⟨-, hc1, haddr1⟩ := nextBit_some hc hbit
      obtain ⟨i, hi, hin⟩ := ih hc1 (Option.map_eq_none_iff.1 (h p hbit))
      exact ⟨i + 1, by omega, by rwa [haddr1, Nat.add_assoc, Nat.add_comm 1] at hin⟩

/-- Settles O40, by induction on the bits read. -/
theorem cursorReadsAdvanceByTheBitsTheyRead : Obligations.CursorReadsAdvanceByTheBitsTheyRead :=
  fun _ _ _ hc => ⟨fun _ _ => eatBits_cursor_some hc, eatBits_cursor_none hc⟩

/-- `DROP_BITS` up to the next byte boundary is `ALIGN` (R145): inside a byte every bit is buffered. -/
theorem dropBits_to_boundary (hk : n < 8) (h : (c.bitIdx.toNat + n) % 8 = 0) :
    dropBits (cursorSource fetch) n c = some c.align := by
  induction n generalizing c with
  | zero => rw [Cursor.align_of_aligned c (by bv_omega)]; rfl
  | succ n ih =>
    have hidx : c.bitIdx ≠ 0#3 := by bv_omega
    have hbit : (cursorSource fetch).bit c = _ := nextBit_buffered fetch c hidx
    rw [dropBits, hbit]
    exact ih (by omega) (by rw [BitVec.toNat_add]; simp; omega)

/-- `ALIGN` moves the address up to the next multiple of 8 (R145, R148). -/
theorem Cursor.align_bitAddr (hc : CursorOk fetch c) : c.align.bitAddr = 8 * ((c.bitAddr + 7) / 8) := by
  rw [bitAddr_of_aligned c.align_bitIdx, align_inPos]
  by_cases hidx : c.bitIdx = 0#3
  · rw [bitAddr_of_aligned hidx]; omega
  · obtain ⟨hpos, -⟩ := hc hidx
    have : c.bitIdx.toNat ≠ 0 := by bv_omega
    have : c.bitIdx.toNat < 8 := c.bitIdx.isLt
    rw [bitAddr, if_neg hidx]
    omega

/-- Settles O41, by the bits left in the buffered byte. -/
theorem alignDropsTheRestOfTheByte : Obligations.AlignDropsTheRestOfTheByte :=
  fun _ c => ⟨dropBits_to_boundary (by omega) (by have := c.bitIdx.isLt; omega), Cursor.align_bitAddr⟩

/-- At a byte boundary the eight bits ahead are those of the byte at `in_pos` (R68, R148). -/
theorem bitsAhead_byte (h : c.bitIdx = 0#3) {byte : Byte} (hf : fetch c.inPos = some byte) :
    BitsAhead fetch (lsbBits 8 byte.toNat) c := by
  refine ⟨fun hidx => absurd h hidx, fun k hk => ?_⟩
  have hk8 : k < 8 := by rwa [lsbBits_length] at hk
  have hbit := lsbValue_testBit (lsbBits 8 byte.toNat) k
  rw [lsbValue_lsbBits byte.isLt, List.getElem?_eq_getElem hk, Option.getD_some] at hbit
  rw [Cursor.bitAddr_of_aligned h, inBit, show (8 * c.inPos + k) / 8 = c.inPos by omega,
    show (8 * c.inPos + k) % 8 = k by omega, hf, List.getElem?_eq_getElem hk, ← hbit]
  rfl

/-- At a byte boundary `EAT_BITS(8)` reads the byte at `in_pos`, if there is one (R141). -/
theorem eatBits_byte (h : c.bitIdx = 0#3) :
    (eatBits (cursorSource fetch) 8 c).map (fun p => ([p.1], p.2.inPos, p.2.bitIdx)) =
      (fetch c.inPos).map fun byte => ([byte.toNat], c.inPos + 1, 0#3) := by
  have hc : CursorOk fetch c := fun hidx => absurd h hidx
  cases hf : fetch c.inPos with
  | none =>
    have hbit : (cursorSource fetch).bit c = none := by
      refine (nextBit_eq_none hc).2 ?_
      rw [Cursor.bitAddr_of_aligned h, inBit, Nat.mul_div_cancel_left _ (by decide), hf]
      rfl
    rw [eatBits_succ, hbit]
    rfl
  | some byte =>
    obtain ⟨c', hread, -⟩ := (listSource_followedBy fetch).eatBits
      (eatBits_list.2 ⟨byte, rfl, (List.append_nil _).symm⟩) (bitsAhead_byte h hf)
    obtain ⟨-, haddr, -⟩ := eatBits_cursor_some hc hread
    have hidx : c'.bitIdx = 0#3 := by rw [eatBits_bitIdx hread, h]; rfl
    rw [Cursor.bitAddr_of_aligned hidx, Cursor.bitAddr_of_aligned h] at haddr
    have hpos : c'.inPos = c.inPos + 1 := by omega
    rw [hread, Option.map_some, Option.map_some, hpos, hidx]

/-- `EAT_RAW(1)` takes the byte at `in_pos` and leaves `bit_idx` alone (R143). -/
theorem eatRaw_byte :
    eatRaw (cursorSource fetch) 1 c = (fetch c.inPos).map fun byte => ([byte], { c with inPos := c.inPos + 1 }) := by
  have hbyte : (cursorSource fetch).byte c = nextRaw fetch c := rfl
  rw [eatRaw, hbyte, nextRaw]
  cases fetch c.inPos <;> rfl

theorem eatBitsSwap_of_eatBits {σ : Type} {src : Source σ} {s s' : σ} {k : Nat} (h : eatBits src n s = some (v, s')) :
    eatBitsSwap src k n s = some (byteReverse k v, s') := by
  rw [eatBitsSwap, h]
  rfl

theorem lsbValue_append (xs ys : List Bool) : lsbValue (xs ++ ys) = lsbValue xs + 2 ^ xs.length * lsbValue ys := by
  induction xs with
  | nil => simp
  | cons x xs ih =>
    rw [List.cons_append, lsbValue_cons, lsbValue_cons, ih, List.length_cons]
    ring

/-- The bits of four bytes are the number with the first byte lowest (R68, R69). -/
theorem lsbValue_fourBytes (b0 b1 b2 b3 : Byte) :
    lsbValue (lsbBits 8 b0.toNat ++ lsbBits 8 b1.toNat ++ lsbBits 8 b2.toNat ++ lsbBits 8 b3.toNat) =
      b0.toNat + 256 * (b1.toNat + 256 * (b2.toNat + 256 * b3.toNat)) := by
  simp only [List.append_assoc, lsbValue_append, lsbBits_length, lsbValue_lsbBits (BitVec.isLt _)]
  rfl

/-- Settles O42: both reads take the byte at `in_pos`; the trailer's bytes come lowest first and are turned around. -/
theorem byteReadsAgree : Obligations.ByteReadsAgree := by
  refine ⟨fun fetch c h => ?_, fun b0 b1 b2 b3 rest => ?_⟩
  · rw [eatBits_byte h, eatRaw_byte, Option.map_map]
    cases fetch c.inPos with
    | none => rfl
    | some byte => simp [h]
  · refine (eatBitsSwap_of_eatBits (eatBits_listSource.2 ⟨_, ?_, (lsbValue_fourBytes b0 b1 b2 b3).symm, rfl⟩)).trans ?_
    · simp only [List.length_append, lsbBits_length]
    rw [byteReverse_four b0.isLt b1.isLt b2.isLt b3.isLt]
    congr 2
    omega

end Sys2Proof.Machine
end

section
/-! PROOFS. A fetch that gives no element (40_bitstream_reader.md R147; 41_huffman_tables.md R173) and a sink that is not ready, settling
O34. -/

namespace Sys2Proof.Machine

variable {s : State} {f : Format} {c : Ctx}

/-- DECODE on the empty table fails before any bit is read (R173). -/
theorem decode_emptyTable {σ : Type} {src : Source σ} {u : σ} (h : (∃ p, c = .clSym [] p) ∨ c = .llSym [] ∨ c = .dSym []) :
    decode src c u = .emptyTable := by
  obtain ⟨p, rfl⟩ | rfl | rfl := h <;> rfl

/-- A source that runs out inside an element: waiting before the end of the input, an error after it (R147, R356). -/
theorem State.fetch_short (hal : f = .rawByte → s.cur.bitIdx = 0#3) (hctx : s.ctx f = some c)
    (h : decode s.source c s.cur = .short) :
    s.fetch f = if s.inEnded then .error .ePrematureEnd else .wait := by
  rw [State.fetch, if_neg fun hr => hr.2 (hal hr.1)]
  simp only [hctx, h]

theorem State.fetch_emptyTable (hctx : s.ctx f = some c) (h : decode s.source c s.cur = .emptyTable) (hf : f ≠ .rawByte) :
    s.fetch f = .error .eBadSymbol := by
  rw [State.fetch, if_neg fun hr => hf hr.1]
  simp only [hctx, h]

theorem State.engine_wait (hp : s.point = .element f) (h : s.fetch f = .wait) : s.engine = .next s := by
  simp only [State.engine, hp, h]

theorem State.engine_error {e : ErrCode} (hp : s.point = .element f) (h : s.fetch f = .error e) :
    s.engine = .next (s.raise e) := by
  simp only [State.engine, hp, h]

/-- Settles O34, by what the fetch answers in each case. -/
theorem exhaustedInputWaitsOrFails : Obligations.ExhaustedInputWaitsOrFails := by
  refine ⟨fun s f c hops hp hctx hal => ?_, fun s f c hops hp hctx hc => ?_, fun s hops hp hsink => ?_⟩ <;> rw [step_engine hops]
  · refine ⟨fun hshort hend => ?_, fun hshort hend => ?_, fun i cur helem hemits hsink => ?_⟩
    · have hfetch := State.fetch_short hal hctx hshort
      rw [hend] at hfetch
      exact State.engine_wait hp hfetch
    · have hfetch := State.fetch_short hal hctx hshort
      rw [hend] at hfetch
      exact ⟨_, State.engine_error hp hfetch, s.raise_failsWith _⟩
    · have hfetch := State.fetch_elem.2 ⟨fun hr => hr.2 (hal hr.1), c, cur, hctx, helem, rfl⟩
      exact State.engine_next.2 (.inr (.inr (.inr (.inr ⟨f, hp, .inr (.inr ⟨i, _, hfetch, .inl ⟨hemits, hsink, rfl⟩⟩)⟩))))
  · have hf : f ≠ .rawByte := by
      rintro rfl
      cases hctx
      simp at hc
    exact ⟨_, State.engine_error hp (State.fetch_emptyTable hctx (decode_emptyTable hc) hf), s.raise_failsWith _⟩
  · exact State.engine_next.2 (.inr (.inr (.inl ⟨hp, hsink, rfl⟩)))

end Sys2Proof.Machine
end

section
/-! PROOFS. The canonical codes (41_huffman_tables.md R162, R164): the assignment loop gives every coded symbol the first code of its
length class plus the number of earlier symbols of that class; settling O47. -/

namespace Sys2Proof.Machine

variable {lengths : List Nat} {l m s k : Nat} {e f : Entry}

/-! How often a length occurs before a symbol. -/

theorem count_take_lt {i j : Nat} (h : lengths[i]? = some l) (hij : i < j) :
    (lengths.take i).count l < (lengths.take j).count l := by
  have hsucc : (lengths.take (i + 1)).count l = (lengths.take i).count l + 1 := by
    rw [List.take_add_one, h, List.count_append]
    simp
  have hle : (lengths.take (i + 1)).count l ≤ (lengths.take j).count l :=
    ((List.take_prefix_take_left hij).sublist).count_le l
  omega

theorem count_take_lt_count (h : lengths[s]? = some l) : (lengths.take s).count l < lengths.count l := by
  obtain ⟨hs, -⟩ := List.getElem?_eq_some_iff.1 h
  simpa using count_take_lt h hs

/-- Every number below the count of a length is the number of its occurrences before one of them. -/
theorem exists_count_take (h : k < lengths.count l) : ∃ s, lengths[s]? = some l ∧ (lengths.take s).count l = k := by
  induction lengths generalizing k with
  | nil => simp at h
  | cons x xs ih =>
    by_cases hx : x = l
    · subst hx
      cases k with
      | zero => exact ⟨0, by simp⟩
      | succ k =>
        obtain ⟨s, hs, hcount⟩ := ih (k := k) (by simpa using h)
        exact ⟨s + 1, by simpa using hs, by simp [hcount]⟩
    · obtain ⟨s, hs, hcount⟩ := ih (by simpa [hx] using h)
      exact ⟨s + 1, by simpa using hs, by simp [hx, hcount]⟩

theorem le_maxLen (h : l ∈ lengths) : l ≤ maxLen lengths := by
  rw [maxLen, ← List.foldr_eq_foldl]
  exact List.le_max_of_le' 0 h le_rfl

/-! The assignment loop. -/

/-- `next[]` after the symbols whose lengths are `before` (R164). -/
def nextCodes (lengths before : List Nat) : List Nat :=
  (List.range (maxLen lengths + 1)).map fun l => firstCode lengths l + codeCount before l

/-- The entry of the canonical order for a symbol (R164). -/
def canonicalEntry (lengths : List Nat) (s : Nat) : Entry :=
  let l := lengths.getD s 0
  ⟨l, firstCode lengths l + (lengths.take s).count l, s⟩

/-- The entries of the coded symbols, in ascending symbol order (R164). -/
def canonical (lengths : List Nat) : Table :=
  ((List.range lengths.length).map (canonicalEntry lengths)).filter fun e => e.len ≠ 0

theorem nextCodes_nil : nextCodes lengths [] = firstCodes lengths := by
  simp [nextCodes, firstCodes, codeCount]

theorem nextCodes_getD (hl : l ≠ 0) (h : l ≤ maxLen lengths) (before : List Nat) :
    (nextCodes lengths before).getD l 0 = firstCode lengths l + before.count l := by
  simp [nextCodes, List.getD_eq_getElem?_getD, List.getElem?_range (Nat.lt_succ_of_le h), codeCount, hl]

theorem nextCodes_append_zero (before : List Nat) : nextCodes lengths (before ++ [0]) = nextCodes lengths before := by
  have : ∀ l, codeCount (before ++ [0]) l = codeCount before l := by
    intro l
    by_cases hl : l = 0
    · simp [codeCount, hl]
    · simp [codeCount, hl, Ne.symm hl]
  simp only [nextCodes, this]

/-- Counting a symbol off in its length class moves on to the next symbol (R164). -/
theorem nextCodes_append (hl : l ≠ 0) (h : l ≤ maxLen lengths) (before : List Nat) :
    nextCodes lengths (before ++ [l]) =
      (nextCodes lengths before).set l ((nextCodes lengths before).getD l 0 + 1) := by
  rw [nextCodes_getD hl h]
  refine List.ext_getElem (by simp [nextCodes]) fun i h1 h2 => ?_
  by_cases hi : i = l
  · subst hi
    simp [nextCodes, codeCount, hl, Nat.add_assoc]
  · simp [nextCodes, codeCount, List.count_singleton, Ne.symm hi]

/-- The loop of R164 from any place on. -/
theorem assign_nextCodes (before rest : List Nat) (h : lengths = before ++ rest) :
    assign (nextCodes lengths before) before.length rest =
      ((List.range' before.length rest.length).map (canonicalEntry lengths)).filter fun e => e.len ≠ 0 := by
  induction rest generalizing before with
  | nil => rfl
  | cons l rest ih =>
    have hlen : (canonicalEntry lengths before.length) = ⟨l, firstCode lengths l + before.count l, before.length⟩ := by
      simp [canonicalEntry, h]
    have hrest := ih (before ++ [l]) (by simp [h])
    rw [List.length_append, List.length_singleton] at hrest
    rw [assign, List.length_cons, List.range'_succ, List.map_cons, hlen]
    split
    next hl =>
      subst hl
      rw [← nextCodes_append_zero, hrest, List.filter_cons_of_neg (by simp)]
    next hl =>
      have hmax : l ≤ maxLen lengths := le_maxLen (by simp [h])
      rw [← nextCodes_append hl hmax, hrest, nextCodes_getD hl hmax, List.filter_cons_of_pos (by simpa using hl)]

theorem assign_eq_canonical (lengths : List Nat) : assign (firstCodes lengths) 0 lengths = canonical lengths := by
  rw [← nextCodes_nil, canonical, List.range_eq_range']
  exact assign_nextCodes [] lengths rfl

/-! The canonical table. -/

theorem mem_canonical :
    e ∈ canonical lengths ↔ lengths[e.sym]? = some e.len ∧ e.len ≠ 0 ∧
      e.code = firstCode lengths e.len + (lengths.take e.sym).count e.len := by
  simp only [canonical, List.mem_filter, List.mem_map, List.mem_range, decide_eq_true_eq]
  constructor
  · rintro ⟨⟨s, hs, rfl⟩, hne⟩
    exact ⟨by simp [canonicalEntry, hs], hne, rfl⟩
  · rintro ⟨hsym, hne, hcode⟩
    have hget : lengths.getD e.sym 0 = e.len := by simp [List.getD_eq_getElem?_getD, hsym]
    refine ⟨⟨e.sym, (List.getElem?_eq_some_iff.1 hsym).1, ?_⟩, hne⟩
    rw [canonicalEntry, hget, ← hcode]

theorem canonical_pairwise_sym (lengths : List Nat) : (canonical lengths).Pairwise fun e f => e.sym < f.sym :=
  List.Pairwise.filter _ (List.pairwise_map.2 (by simpa [canonicalEntry] using List.pairwise_lt_range))

theorem canonical_sym_len (lengths : List Nat) :
    ((canonical lengths).map fun e => (e.sym, e.len)) =
      ((List.range lengths.length).map fun s => (s, lengths.getD s 0)).filter fun p => p.2 ≠ 0 := by
  rw [canonical, List.filter_map, List.filter_map, List.map_map]
  rfl

theorem canonical_lens (lengths : List Nat) : (canonical lengths).map Entry.len = lengths.filter (· ≠ 0) := by
  have hmap : ((List.range lengths.length).map (canonicalEntry lengths)).map Entry.len = lengths :=
    List.ext_getElem (by simp) fun s _ hs => by simp [canonicalEntry, hs]
  conv_rhs => rw [← hmap, List.filter_map]
  rfl

theorem canonical_length (lengths : List Nat) : (canonical lengths).length = (lengths.filter (· ≠ 0)).length := by
  rw [← canonical_lens, List.length_map]

/-- The first code past a length class, `first[L] + count[L]` (R162, R163). -/
def classEnd (lengths : List Nat) (l : Nat) : Nat := firstCode lengths l + codeCount lengths l

@[simp] theorem classEnd_zero (lengths : List Nat) : classEnd lengths 0 = 0 := rfl

theorem firstCode_succ (lengths : List Nat) (l : Nat) : firstCode lengths (l + 1) = classEnd lengths l * 2 := rfl

/-- A code lies below the end of its class. -/
theorem code_lt_classEnd (he : e ∈ canonical lengths) : e.code < classEnd lengths e.len := by
  obtain ⟨hsym, hne, hcode⟩ := mem_canonical.1 he
  rw [hcode, classEnd, codeCount, if_neg hne]
  exact Nat.add_lt_add_left (count_take_lt_count hsym) _

/-- Where the codes of a class begin, all shorter codes have been passed, extended to that length (R162). -/
theorem classEnd_mul_le_firstCode (lengths : List Nat) (h : l < m) :
    classEnd lengths l * 2 ^ (m - l) ≤ firstCode lengths m := by
  induction m, h using Nat.le_induction with
  | base => simp [firstCode_succ]
  | succ m h ih =>
    rw [Nat.succ_sub (by omega), Nat.pow_succ, ← Nat.mul_assoc, firstCode_succ, classEnd]
    exact Nat.mul_le_mul_right 2 (ih.trans (Nat.le_add_right _ _))

/-- Within a length class codes rise with the symbol (R164). -/
theorem code_lt_of_sym_lt (he : e ∈ canonical lengths) (hf : f ∈ canonical lengths) (hlen : e.len = f.len)
    (hsym : e.sym < f.sym) : e.code < f.code := by
  obtain ⟨hesym, -, hecode⟩ := mem_canonical.1 he
  obtain ⟨-, -, hfcode⟩ := mem_canonical.1 hf
  rw [hecode, hfcode, ← hlen]
  exact Nat.add_lt_add_left (count_take_lt hesym hsym) _

/-- A code lies below the prefix, of its length, of every longer code (R162, R164). -/
theorem code_lt_prefix (he : e ∈ canonical lengths) (hf : f ∈ canonical lengths) (hlen : e.len < f.len) :
    e.code < f.code / 2 ^ (f.len - e.len) := by
  obtain ⟨-, -, hfcode⟩ := mem_canonical.1 hf
  calc e.code < classEnd lengths e.len := code_lt_classEnd he
    _ ≤ f.code / 2 ^ (f.len - e.len) := by
      rw [Nat.le_div_iff_mul_le (Nat.two_pow_pos _), hfcode]
      exact (classEnd_mul_le_firstCode lengths hlen).trans (Nat.le_add_right _ _)

/-- BUILD without its table written out: the over-full check, and the codes of the longest class reaching the end of its width (R168). -/
theorem build_of_two (h : 2 ≤ (lengths.filter (· ≠ 0)).length) (allowEmpty : Bool) :
    build lengths allowEmpty =
      if overfull lengths then .error .eHuffOverfull
      else if classEnd lengths (maxLen lengths) = 2 ^ maxLen lengths then .ok (canonical lengths)
      else .error .eHuffIncomplete := by
  have hlen := canonical_length lengths
  obtain ⟨h0, -⟩ | ⟨-, ⟨ho, hb⟩ | ⟨ho, ⟨e, hs, -⟩ | ⟨-, hb⟩⟩⟩ := build_cases lengths allowEmpty
  · rw [List.filter_eq_nil_iff.2 (by simpa using h0)] at h
    simp at h
  · rw [hb, if_pos ho]
  · rw [← assign_eq_canonical, hs, List.length_singleton] at hlen
    omega
  · simp only [hb, ho, assign_eq_canonical]
    rfl

/-- Settles O47: a table BUILD returns for two or more codes is the canonical one. -/
theorem codesAreAssignedInCanonicalOrder : Obligations.CodesAreAssignedInCanonicalOrder := by
  intro lengths allowEmpty t h2 hb
  obtain rfl : t = canonical lengths := by
    rw [build_of_two h2] at hb
    split at hb
    · cases hb
    · split at hb <;> cases hb
      rfl
  exact ⟨canonical_sym_len lengths, fun e he f hf => code_lt_of_sym_lt he hf, fun e he f hf => code_lt_prefix he hf⟩

end Sys2Proof.Machine
end

section
/-! PROOFS. The code space (41_huffman_tables.md R161, R163, R167): the end of the longest class is the sum of `2 ^ (-len)`, in units of
that class; settling O45. -/

namespace Sys2Proof.Machine

variable {lengths : List Nat} {l m : Nat}

theorem maxLen_le (h : ∀ l ∈ lengths, l ≤ m) : maxLen lengths ≤ m := by
  rw [maxLen, ← List.foldr_eq_foldl]
  exact List.max_le_of_forall_le lengths m h

theorem classEnd_succ (lengths : List Nat) (l : Nat) :
    classEnd lengths (l + 1) = classEnd lengths l * 2 + lengths.count (l + 1) := rfl

theorem classEnd_mul_le (lengths : List Nat) (h : l ≤ m) : classEnd lengths l * 2 ^ (m - l) ≤ classEnd lengths m := by
  obtain rfl | hlt := h.eq_or_lt
  · simp
  · exact (classEnd_mul_le_firstCode lengths hlt).trans (Nat.le_add_right _ _)

/-- Past the longest code no codes are added. -/
theorem classEnd_of_maxLen_le (h : maxLen lengths ≤ m) :
    classEnd lengths m = classEnd lengths (maxLen lengths) * 2 ^ (m - maxLen lengths) := by
  induction m, h using Nat.le_induction with
  | base => simp
  | succ m h ih =>
    have hcount : lengths.count (m + 1) = 0 :=
      List.count_eq_zero.2 fun hmem => absurd (le_maxLen hmem) (by omega)
    rw [classEnd_succ, hcount, ih, Nat.succ_sub h, Nat.pow_succ, Nat.mul_assoc, Nat.add_zero]

/-- The code space that the codes of at most `m` bits take, in units of `2 ^ (-m)`. -/
def spaceTo (lengths : List Nat) (m : Nat) : Nat := (lengths.map fun l => if l = 0 ∨ m < l then 0 else 2 ^ (m - l)).sum

theorem spaceTo_succ (lengths : List Nat) (m : Nat) :
    spaceTo lengths (m + 1) = spaceTo lengths m * 2 + lengths.count (m + 1) := by
  induction lengths with
  | nil => rfl
  | cons l ls ih =>
    have hl : (if l = 0 ∨ m + 1 < l then 0 else 2 ^ (m + 1 - l)) =
        (if l = 0 ∨ m < l then 0 else 2 ^ (m - l)) * 2 + if l = m + 1 then 1 else 0 := by
      by_cases hle : l ≤ m
      · simp [hle.not_gt, (Nat.le_succ_of_le hle).not_gt, Nat.succ_sub hle, Nat.pow_succ,
          show l ≠ m + 1 by omega]
      · by_cases heq : l = m + 1
        · simp [heq]
        · rw [if_pos (by omega), if_pos (by omega), if_neg heq]
    simp only [spaceTo, List.map_cons, List.sum_cons, List.count_cons, beq_iff_eq] at ih ⊢
    omega

theorem classEnd_eq_spaceTo (lengths : List Nat) (m : Nat) : classEnd lengths m = spaceTo lengths m := by
  induction m with
  | zero =>
    refine (List.sum_eq_zero fun x hx => ?_).symm
    obtain ⟨l, -, rfl⟩ := List.mem_map.1 hx
    exact if_pos l.eq_zero_or_pos
  | succ m ih => rw [classEnd_succ, ih, spaceTo_succ]

/-- The sum of `2 ^ (-len)` is where the longest class ends (R161, R163). -/
theorem kraft_eq_classEnd (h : ∀ l ∈ lengths, l ≤ 15) :
    kraft lengths = classEnd lengths (maxLen lengths) * 2 ^ (15 - maxLen lengths) := by
  rw [← classEnd_of_maxLen_le (maxLen_le h), classEnd_eq_spaceTo, kraft, spaceTo]
  refine congrArg _ (List.map_congr_left fun l hl => ?_)
  simp [(h l hl).not_gt, Config.maxBits]

/-- A class given more codes than fit in its width makes every later class so; the longest one decides (R163). -/
theorem overfull_iff (lengths : List Nat) :
    overfull lengths = true ↔ 2 ^ maxLen lengths < classEnd lengths (maxLen lengths) := by
  simp only [overfull, List.any_eq_true, List.mem_range, overfullAt, decide_eq_true_eq]
  constructor
  · rintro ⟨l, hl, hover⟩
    calc 2 ^ maxLen lengths = 2 ^ (l + 1) * 2 ^ (maxLen lengths - (l + 1)) := (pow_mul_pow_sub 2 hl).symm
      _ < classEnd lengths (l + 1) * 2 ^ (maxLen lengths - (l + 1)) :=
        Nat.mul_lt_mul_of_pos_right hover (Nat.two_pow_pos _)
      _ ≤ classEnd lengths (maxLen lengths) := classEnd_mul_le lengths hl
  · intro h
    cases hm : maxLen lengths with
    | zero => simp [hm] at h
    | succ l => exact ⟨l, l.lt_succ_self, by rwa [hm] at h⟩

/-- Settles O45: both tests of BUILD compare the end of the longest class with its width. -/
theorem buildDecidesByTheCodeSpace : Obligations.BuildDecidesByTheCodeSpace := by
  intro lengths allowEmpty h15 h2
  have hpow : 2 ^ 15 = 2 ^ maxLen lengths * 2 ^ (15 - maxLen lengths) := (pow_mul_pow_sub 2 (maxLen_le h15)).symm
  have hpos : 0 < 2 ^ (15 - maxLen lengths) := Nat.two_pow_pos _
  rw [kraft_eq_classEnd h15, hpow, Nat.mul_lt_mul_right hpos, Nat.mul_lt_mul_right hpos, Nat.mul_left_inj hpos.ne',
    build_of_two h2]
  simp only [overfull_iff]
  obtain hlt | heq | hgt := Nat.lt_trichotomy (classEnd lengths (maxLen lengths)) (2 ^ maxLen lengths)
  · simp [hlt, hlt.not_gt, hlt.ne]
  · simp [heq]
  · simp [hgt, hgt.not_gt, hgt.ne']

end Sys2Proof.Machine
end

section
/-! PROOFS. A table BUILD returns is a complete prefix code (41_huffman_tables.md R160, R161), settling O43 and O44: as many bits of a
sequence as its code has are past all shorter codes and inside their own length class. -/

namespace Sys2Proof.Machine

variable {lengths : List Nat} {allowEmpty : Bool} {bits : List Bool} {t : Table} {l m n v w : Nat} {e f : Entry}

/-! Bit strings as numbers. -/

theorem msbBits_add (m n v : Nat) : msbBits (m + n) v = msbBits m (v / 2 ^ n) ++ msbBits n v := by
  induction n generalizing v with
  | zero => simp [msbBits, lsbBits]
  | succ n ih =>
    have h1 (k : Nat) : msbBits (k + 1) v = msbBits k (v / 2) ++ [v % 2 == 1] := by simp [msbBits, lsbBits]
    rw [← Nat.add_assoc, h1, ih, h1, List.append_assoc, Nat.div_div_eq_div_mul, Nat.pow_succ, Nat.mul_comm 2]

/-- One bit string begins another exactly when it is the other's number without the last bits. -/
theorem msbBits_prefix_iff (hv : v < 2 ^ m) (hw : w < 2 ^ n) :
    msbBits m v <+: msbBits n w ↔ m ≤ n ∧ v = w / 2 ^ (n - m) := by
  constructor
  · intro h
    have hle : m ≤ n := by simpa using h.length_le
    obtain ⟨k, rfl⟩ := Nat.exists_eq_add_of_le hle
    rw [msbBits_add] at h
    refine ⟨hle, ?_⟩
    have hdiv : w / 2 ^ k < 2 ^ m := (Nat.div_lt_iff_lt_mul (Nat.two_pow_pos k)).2 (by rwa [← Nat.pow_add])
    have heq := List.prefix_of_prefix_length_le h (List.prefix_append _ _) (by simp) |>.eq_of_length (by simp)
    rw [Nat.add_sub_cancel_left]
    exact (msbBits_inj hv hdiv).1 heq
  · rintro ⟨hle, rfl⟩
    obtain ⟨k, rfl⟩ := Nat.exists_eq_add_of_le hle
    rw [msbBits_add, Nat.add_sub_cancel_left]
    exact List.prefix_append _ _

/-- Every list of bits is that of a number, most-significant bit first. -/
theorem exists_msbBits (bits : List Bool) : ∃ v < 2 ^ bits.length, msbBits bits.length v = bits :=
  ⟨lsbValue bits.reverse, by simpa using lsbValue_lt bits.reverse, by
    rw [msbBits, ← List.length_reverse, lsbBits_lsbValue, List.reverse_reverse]⟩

/-! What BUILD returns. -/

/-- A table BUILD returns is empty, a repaired single code, or the canonical one filling the code space exactly (R165 to R168). -/
theorem build_ok (h : build lengths allowEmpty = .ok t) :
    (t = [] ∧ allowEmpty = true ∧ ∀ l ∈ lengths, l = 0) ∨
    (∃ s < lengths.length, t = singleCode s) ∨
    (t = canonical lengths ∧ overfull lengths = false ∧ classEnd lengths (maxLen lengths) = 2 ^ maxLen lengths) := by
  obtain ⟨h0, hb⟩ | ⟨-, ⟨-, hb⟩ | ⟨ho, ⟨e, hs, hb⟩ | ⟨-, hb⟩⟩⟩ := build_cases lengths allowEmpty <;> rw [hb] at h
  · cases allowEmpty <;> cases h
    exact .inl ⟨rfl, rfl, h0⟩
  · cases h
  · cases h
    have he : e ∈ canonical lengths := by simp [← assign_eq_canonical, hs]
    obtain ⟨hsym, -, -⟩ := mem_canonical.1 he
    exact .inr (.inl ⟨e.sym, (List.getElem?_eq_some_iff.1 hsym).1, rfl⟩)
  · split at h <;> cases h
    next hfull => exact .inr (.inr ⟨assign_eq_canonical lengths, ho, hfull⟩)

/-! Codes of their own lengths, none of which begins another. -/

/-- A list that is not over-full gives no class more codes than fit in its width (R163). -/
theorem classEnd_le (ho : overfull lengths = false) (hl : l ≤ maxLen lengths) : classEnd lengths l ≤ 2 ^ l := by
  have hmax : classEnd lengths (maxLen lengths) ≤ 2 ^ maxLen lengths := by
    rw [← Nat.not_lt, ← overfull_iff, ho]
    decide
  have hmul := (classEnd_mul_le lengths hl).trans hmax
  rw [← pow_mul_pow_sub 2 hl] at hmul
  exact Nat.le_of_mul_le_mul_right hmul (Nat.two_pow_pos _)

theorem len_mem_of_mem_canonical (he : e ∈ canonical lengths) : e.len ∈ lengths :=
  List.mem_of_getElem? (mem_canonical.1 he).1

theorem code_lt_two_pow (ho : overfull lengths = false) (he : e ∈ canonical lengths) : e.code < 2 ^ e.len :=
  (code_lt_classEnd he).trans_le (classEnd_le ho (le_maxLen (len_mem_of_mem_canonical he)))

theorem canonical_fits (ho : overfull lengths = false) (h15 : ∀ l ∈ lengths, l ≤ Config.maxBits) (hn : lengths.length ≤ n) :
    Fits n (canonical lengths) := by
  intro e he
  obtain ⟨hsym, hne, -⟩ := mem_canonical.1 he
  have hlt : e.sym < lengths.length := (List.getElem?_eq_some_iff.1 hsym).1
  exact ⟨Nat.pos_of_ne_zero hne, h15 _ (len_mem_of_mem_canonical he), code_lt_two_pow ho he, hlt.trans_le hn⟩

/-- A code that begins another is that code: it is not shorter, lying below the other's prefix, and of one length only equal codes
begin each other (R160). -/
theorem sym_eq_of_prefix (ho : overfull lengths = false) (he : e ∈ canonical lengths) (hf : f ∈ canonical lengths)
    (h : entryBits e <+: entryBits f) : e.sym = f.sym := by
  obtain ⟨hle, hcode⟩ := (msbBits_prefix_iff (code_lt_two_pow ho he) (code_lt_two_pow ho hf)).1 h
  obtain hlt | heq := hle.lt_or_eq
  · exact absurd hcode (code_lt_prefix he hf hlt).ne
  · simp only [heq, Nat.sub_self, Nat.pow_zero, Nat.div_one] at hcode
    obtain hlt | hsym | hgt := Nat.lt_trichotomy e.sym f.sym
    · exact absurd hcode (code_lt_of_sym_lt he hf heq hlt).ne
    · exact hsym
    · exact absurd hcode (code_lt_of_sym_lt hf he heq.symm hgt).ne'

theorem canonical_prefixCode (ho : overfull lengths = false) : PrefixCode (canonical lengths) :=
  (canonical_pairwise_sym lengths).imp_of_mem fun he hf hlt =>
    ⟨fun h => hlt.ne (sym_eq_of_prefix ho he hf h), fun h => hlt.ne' (sym_eq_of_prefix ho hf he h)⟩

theorem singleCode_prefixCode (s : Nat) : PrefixCode (singleCode s) := by
  simp [PrefixCode, singleCode, entryBits, msbBits, lsbBits, List.suffix_cons_iff]

/-- Settles O43, by the kind of table BUILD returns. -/
theorem buildGivesPrefixCodes : Obligations.BuildGivesPrefixCodes := by
  rintro n allowEmpty t ⟨lengths, hn, h15, hb⟩
  obtain ⟨rfl, -, -⟩ | ⟨s, hs, rfl⟩ | ⟨rfl, ho, -⟩ := build_ok hb
  · exact ⟨fun e he => absurd he List.not_mem_nil, .nil⟩
  · exact ⟨by simpa [Fits, singleCode, Config.maxBits] using hs.trans_le hn, singleCode_prefixCode s⟩
  · exact ⟨canonical_fits ho h15 hn, canonical_prefixCode ho⟩

/-! Completeness. -/

/-- Where no code begins another, it is enough that some code begins each sequence (R161). -/
theorem PrefixCode.complete (hp : PrefixCode t) (h : ∀ bits, bits.length = Config.maxBits → ∃ e ∈ t, entryBits e <+: bits) :
    Complete t := by
  intro bits hlen
  obtain ⟨e, he, hpre⟩ := h bits hlen
  exact ⟨e, he, hpre, fun f hf hfpre => hp.eq_of_prefix hf he hfpre hpre⟩

theorem singleCode_complete (s : Nat) : Complete (singleCode s) := by
  refine (singleCode_prefixCode s).complete fun bits hlen => ?_
  obtain ⟨b, bits, rfl⟩ := List.exists_cons_of_length_eq_add_one hlen
  cases b
  · exact ⟨⟨1, 0, s⟩, by simp [singleCode], by simp [entryBits, msbBits, lsbBits]⟩
  · exact ⟨⟨1, 1, s⟩, by simp [singleCode], by simp [entryBits, msbBits, lsbBits]⟩

/-- The numbers from the first code of a class to its end are codes of the class (R164). -/
theorem exists_entry (hl : l ≠ 0) (hv : firstCode lengths l ≤ v) (hend : v < classEnd lengths l) :
    ∃ e ∈ canonical lengths, e.len = l ∧ e.code = v := by
  rw [classEnd, codeCount, if_neg hl] at hend
  obtain ⟨s, hs, hcount⟩ := exists_count_take (lengths := lengths) (l := l) (k := v - firstCode lengths l) (by omega)
  exact ⟨⟨l, v, s⟩, mem_canonical.2 ⟨hs, hl, by simp only [hcount]; omega⟩, rfl, rfl⟩

/-- The shortest length at which the first bits of a number lie below the end of the class: there they are a code, since one bit
earlier they were past all codes. -/
theorem exists_entry_of_lt (hm : maxLen lengths ≤ m) (hfull : classEnd lengths (maxLen lengths) = 2 ^ maxLen lengths)
    (hv : v < 2 ^ m) : ∃ e ∈ canonical lengths, e.len ≤ m ∧ e.code = v / 2 ^ (m - e.len) := by
  have hex : ∃ l, v / 2 ^ (m - l) < classEnd lengths l := by
    refine ⟨maxLen lengths, ?_⟩
    rw [hfull, Nat.div_lt_iff_lt_mul (Nat.two_pow_pos _), pow_mul_pow_sub 2 hm]
    exact hv
  obtain ⟨l, hlt, hmin⟩ : ∃ l, v / 2 ^ (m - l) < classEnd lengths l ∧ ∀ k < l, classEnd lengths k ≤ v / 2 ^ (m - k) :=
    ⟨Nat.find hex, Nat.find_spec hex, fun k hk => Nat.not_lt.1 (Nat.find_min hex hk)⟩
  have hlm : l ≤ maxLen lengths := by
    by_contra hgt
    have := hmin _ (Nat.not_le.1 hgt)
    rw [hfull, Nat.le_div_iff_mul_le (Nat.two_pow_pos _), pow_mul_pow_sub 2 hm] at this
    omega
  cases l with
  | zero => simp at hlt
  | succ k =>
    have hfirst : firstCode lengths (k + 1) ≤ v / 2 ^ (m - (k + 1)) := by
      have hk := hmin k k.lt_succ_self
      rw [show m - k = m - (k + 1) + 1 by omega, Nat.pow_succ, ← Nat.div_div_eq_div_mul] at hk
      rw [firstCode_succ]
      omega
    obtain ⟨e, he, hlen, hcode⟩ := exists_entry k.succ_ne_zero hfirst hlt
    exact ⟨e, he, by omega, by rw [hlen, hcode]⟩

theorem canonical_complete (ho : overfull lengths = false) (h15 : ∀ l ∈ lengths, l ≤ 15)
    (hfull : classEnd lengths (maxLen lengths) = 2 ^ maxLen lengths) : Complete (canonical lengths) := by
  refine (canonical_prefixCode ho).complete fun bits hlen => ?_
  obtain ⟨v, hv, hbits⟩ := exists_msbBits bits
  rw [hlen] at hv hbits
  obtain ⟨e, he, hle, hcode⟩ := exists_entry_of_lt (maxLen_le h15) hfull hv
  exact ⟨e, he, hbits ▸ (msbBits_prefix_iff (code_lt_two_pow ho he) hv).2 ⟨hle, hcode⟩⟩

/-- Settles O44, by the kind of table BUILD returns. -/
theorem buildGivesCompleteTables : Obligations.BuildGivesCompleteTables := by
  intro lengths allowEmpty t h15 hb
  obtain hempty | ⟨s, -, rfl⟩ | ⟨rfl, ho, hfull⟩ := build_ok hb
  · exact .inl hempty
  · exact .inr (singleCode_complete s)
  · exact .inr (canonical_complete ho h15 hfull)

end Sys2Proof.Machine
end

section
/-! PROOFS. Lists with one code or none (41_huffman_tables.md R165, R166, R171), settling O46. -/

namespace Sys2Proof.Machine

variable {lengths : List Nat} {s l m : Nat}

theorem filter_of_single (hs : lengths[s]? = some l) (hl : l ≠ 0)
    (hothers : ∀ k m, lengths[k]? = some m → k ≠ s → m = 0) : lengths.filter (· ≠ 0) = [l] := by
  induction lengths generalizing s with
  | nil => simp at hs
  | cons x xs ih =>
    cases s with
    | zero =>
      obtain rfl : x = l := by simpa using hs
      have hrest : xs.filter (· ≠ 0) = [] := by
        simp only [List.filter_eq_nil_iff, decide_eq_true_eq, not_not]
        intro m hm
        obtain ⟨k, hk⟩ := List.getElem?_of_mem hm
        exact hothers (k + 1) m hk k.succ_ne_zero
      rw [List.filter_cons_of_pos (by simpa using hl), hrest]
    | succ s =>
      have hx : x = 0 := hothers 0 x rfl s.succ_ne_zero.symm
      rw [List.filter_cons_of_neg (by simp [hx])]
      exact ih hs fun k m hk hne => hothers (k + 1) m hk (by omega)

/-- Only the coded symbols take code space (R161). -/
theorem spaceTo_filter (lengths : List Nat) (m : Nat) : spaceTo (lengths.filter (· ≠ 0)) m = spaceTo lengths m := by
  induction lengths with
  | nil => rfl
  | cons l ls ih =>
    simp only [spaceTo, List.map_cons, List.sum_cons] at ih ⊢
    by_cases hl : l = 0
    · rw [List.filter_cons_of_neg (by simp [hl]), ih, if_pos (.inl hl), Nat.zero_add]
    · rw [List.filter_cons_of_pos (by simpa using hl), List.map_cons, List.sum_cons, ih]

/-- One code fits in the code space (R163, R166). -/
theorem not_overfull_of_single (h : lengths.filter (· ≠ 0) = [l]) : overfull lengths = false := by
  rw [Bool.eq_false_iff, Ne, overfull_iff, Nat.not_lt, classEnd_eq_spaceTo, ← spaceTo_filter, h]
  simp only [spaceTo, List.map_cons, List.map_nil, List.sum_singleton]
  split
  · exact Nat.zero_le _
  · exact Nat.pow_le_pow_right (by decide) (Nat.sub_le _ _)

/-- One code is repaired, whatever its length (R166). -/
theorem build_of_single (hs : lengths[s]? = some l) (hl : l ≠ 0)
    (hothers : ∀ k m, lengths[k]? = some m → k ≠ s → m = 0) (allowEmpty : Bool) :
    build lengths allowEmpty = .ok (singleCode s) := by
  have hfilter := filter_of_single hs hl hothers
  obtain ⟨h0, -⟩ | ⟨-, ⟨ho, -⟩ | ⟨-, ⟨e, he, hb⟩ | ⟨hne, -⟩⟩⟩ := build_cases lengths allowEmpty
  · exact absurd (h0 l (List.mem_of_getElem? hs)) hl
  · simp [not_overfull_of_single hfilter] at ho
  · have hmem : e ∈ canonical lengths := by simp [← assign_eq_canonical, he]
    obtain ⟨hsym, hlen, -⟩ := mem_canonical.1 hmem
    obtain rfl : e.sym = s := by_contra fun hne => hlen (hothers _ _ hsym hne)
    exact hb
  · obtain ⟨e, he⟩ := List.length_eq_one_iff.1 ((canonical_length lengths).trans (by rw [hfilter, List.length_singleton]))
    exact absurd ((assign_eq_canonical lengths).trans he) (hne e)

/-- Settles O46: one code is repaired, either bit is then an entry, and a list of zeros has no code. -/
theorem singleCodesAreRepaired : Obligations.SingleCodesAreRepaired := by
  refine ⟨fun lengths allowEmpty s l hs hl hothers => build_of_single hs hl hothers allowEmpty,
    fun σ src s b c c' hbit => ?_, fun n => ?_⟩
  · cases b <;> simp [decodeSym, walk, hbit, lookup, Config.maxBits]
  · simp [build]

end Sys2Proof.Machine
end

section
/-! PROOFS. The description of dynamic tables (41_huffman_tables.md R174 to R184), settling O12 to O15. -/

namespace Sys2Proof.Machine

variable {s : State} {hlit hdist : BitVec 5} {hclen : BitVec 4} {tab : Table} {lens new : List (BitVec 4)} {i : Instr}

/-! The code-length table (R174 to R176). -/

theorem State.point_clLens (hb : s.phase = .body) (hm : s.mid = .clLens hlit hdist hclen) : s.point = .element .clLens := by
  simp [State.point, hb, hm]

theorem State.point_clSyms (hb : s.phase = .body) (hm : s.mid = .clSyms hlit hdist tab lens) : s.point = .element .clSym := by
  simp [State.point, hb, hm]

/-- Where no key occurs twice, the pair found for a key is the one at its place. -/
theorem find?_zip_key {α β : Type} [BEq α] [LawfulBEq α] {keys : List α} (hk : keys.Nodup) (vals : List β) {k : Nat} {a : α}
    (h : keys[k]? = some a) : ((keys.zip vals).find? fun p => p.1 == a) = vals[k]?.map fun v => (a, v) := by
  induction keys generalizing vals k with
  | nil => simp at h
  | cons b keys ih =>
    obtain ⟨hb, hkeys⟩ := List.nodup_cons.1 hk
    cases vals with
    | nil => simp
    | cons v vals =>
      cases k with
      | zero =>
        obtain rfl : b = a := by simpa using h
        simp
      | succ k =>
        have hne : b ≠ a := fun he => hb (he ▸ List.mem_of_getElem? h)
        rw [List.zip_cons_cons, List.find?_cons_of_neg (by simpa using hne), ih hkeys vals h, List.getElem?_cons_succ]

/-- Field `k` is the length of symbol `CLORDER[k]`; a symbol whose field is not sent has length 0 (R175). -/
theorem clLengths_clOrder (fields : List (BitVec 3)) {k : Nat} (hk : k < 19) :
    (clLengths fields)[clOrder.getD k 0]? = some ((fields.map BitVec.toNat).getD k 0) := by
  have horder : clOrder[k]? = some (clOrder.getD k 0) := by
    rw [List.getD_eq_getElem?_getD, List.getElem?_eq_getElem (l := clOrder) hk, Option.getD_some]
  have hlt : clOrder.getD k 0 < 19 := by
    have : ∀ a ∈ clOrder, a < 19 := by decide
    exact this _ (List.mem_of_getElem? horder)
  rw [clLengths, List.getElem?_map, List.getElem?_range hlt, Option.map_some,
    find?_zip_key (by decide : clOrder.Nodup) fields horder]
  cases h : fields[k]? <;> simp [h]

/-- Settles O12: DYNHDR has one effect, CLLENS the two of `execClLens_next`. -/
theorem dynamicHeaderAndCodeLengthTable : Obligations.DynamicHeaderAndCodeLengthTable := by
  refine ⟨fun s hlit hdist hclen hp => State.whenDue_due hp, fun s hlit hdist hclen lens hb hm hlen => ?_,
    fun lens _ => ⟨by simp [clLengths], fun k hk => clLengths_clOrder lens hk⟩⟩
  have hp := State.point_clLens hb hm
  exact ⟨fun t ht => execClLens_next.2 ⟨hlit, hdist, hclen, hm, hlen, hp, .inr ⟨t, ht, rfl⟩⟩,
    fun e he => ⟨_, execClLens_next.2 ⟨hlit, hdist, hclen, hm, hlen, hp, .inl ⟨e, he, rfl⟩⟩, s.raise_failsWith e⟩⟩

/-! The code-length list (R177 to R180). -/

theorem format_of_appended (h : appended i lens = some new) : i.format = .clSym := by
  cases i with
  | clLen | clCopy | clZero3 | clZero11 => rfl
  | _ => cases h

/-- An element that leaves the list below its full length extends it (R177). -/
theorem exec_extends (hb : s.phase = .body) (hm : s.mid = .clSyms hlit hdist tab lens) (hnew : appended i lens = some new)
    (hlt : lens.length + new.length < nlit hlit + ndist hdist) :
    exec i s = .next { s with mid := .clSyms hlit hdist tab (lens ++ new) } :=
  (exec_clSym (format_of_appended hnew)).trans (State.codeLengths_next.2
    ⟨hlit, hdist, tab, lens, hm, State.point_clSyms hb hm, .inr ⟨new, hnew, .inl ⟨by simpa using hlt, rfl⟩⟩⟩)

/-- Settles O13, by what each element appends. -/
theorem codeLengthSymbolsExtendTheList : Obligations.CodeLengthSymbolsExtendTheList := by
  intro s hlit hdist tab lens hb hm
  refine ⟨fun l hlt => ?_, fun x l hlast hlt => ?_, fun x hlt => ?_, fun x hlt => ?_⟩
  · exact exec_extends hb hm rfl hlt
  · exact exec_extends hb hm (by simp [appended, hlast]) (by rwa [List.length_replicate])
  · exact exec_extends hb hm rfl (by rwa [List.length_replicate])
  · exact exec_extends hb hm rfl (by rwa [List.length_replicate])

/-- Settles O15: CL_COPY appends nothing to an empty list, and its encoding there is the code of symbol 16 alone. -/
theorem copyWithNoPreviousLengthFails : Obligations.CopyWithNoPreviousLengthFails := by
  constructor
  · intro s hlit hdist tab x hb hm
    have hnext := State.codeLengths_next.2
      ⟨hlit, hdist, tab, [], hm, State.point_clSyms hb hm, .inl ⟨(rfl : appended (.clCopy x) [] = none), rfl⟩⟩
    exact ⟨_, (exec_clSym rfl).trans hnext, s.raise_failsWith .eDynRepeat⟩
  · intro t bits hfits hp hbits
    have hencode : encode (.clSym t true) (.clCopy 0#2) = some bits := by
      simp [encode_clSym, Instr.clSymbolAt, encodeCoded, hbits, lsbBits]
    simpa using decodeInvertsEncode (.clSym t true) (.clCopy 0#2) bits [] ⟨hfits, hp⟩ hencode

/-! The end of the list (R181 to R184, R325). -/

/-- An element that fills the list ends it (R177). -/
theorem exec_fills (hb : s.phase = .body) (hm : s.mid = .clSyms hlit hdist tab lens) (hnew : appended i lens = some new)
    (hle : nlit hlit + ndist hdist ≤ (lens ++ new).length) : exec i s = .next (s.finishLens hlit hdist (lens ++ new)) :=
  (exec_clSym (format_of_appended hnew)).trans (State.codeLengths_next.2
    ⟨hlit, hdist, tab, lens, hm, State.point_clSyms hb hm, .inr ⟨new, hnew, .inr ⟨hle, rfl⟩⟩⟩)

/-- The count check (R181). -/
theorem State.finishLens_counts (h : lens.length ≠ nlit hlit + ndist hdist) :
    s.finishLens hlit hdist lens = s.raise .eDynCounts := by
  simp only [State.finishLens, ne_eq, h, not_false_eq_true, if_true]

/-- A list of the announced length has a length for symbol 256. -/
theorem eob_length_eq_zero_iff (h : lens.length = nlit hlit + ndist hdist) :
    ((lens.map BitVec.toNat).take (nlit hlit)).getD Config.eobSym 0 = 0 ↔
      ((lens.map BitVec.toNat).take (nlit hlit))[256]? = some 0 := by
  have hlt : 256 < ((lens.map BitVec.toNat).take (nlit hlit)).length := by
    simp [h, nlit]
  rw [Config.eobSym, List.getD_eq_getElem?_getD, List.getElem?_eq_getElem hlt, Option.getD_some, Option.some_inj]

/-- The end-of-block check (R182). -/
theorem State.finishLens_noEob (h : lens.length = nlit hlit + ndist hdist)
    (h0 : ((lens.map BitVec.toNat).take (nlit hlit))[256]? = some 0) :
    s.finishLens hlit hdist lens = s.raise .eNoEob := by
  simp only [State.finishLens, ne_eq, h, not_true, if_false, (eob_length_eq_zero_iff h).2 h0, if_true]

/-- The literal/length table is built first, and its error ends the run (R183). -/
theorem State.finishLens_llError {e : ErrCode} (h : lens.length = nlit hlit + ndist hdist)
    (h0 : ((lens.map BitVec.toNat).take (nlit hlit))[256]? ≠ some 0)
    (hll : build ((lens.map BitVec.toNat).take (nlit hlit)) false = .error e) :
    s.finishLens hlit hdist lens = s.raise e := by
  simp only [State.finishLens, ne_eq, h, not_true, if_false, mt (eob_length_eq_zero_iff h).1 h0, hll]

/-- The distance table is built second, and its error ends the run (R184). -/
theorem State.finishLens_distError {e : ErrCode} {tl : Table} (h : lens.length = nlit hlit + ndist hdist)
    (h0 : ((lens.map BitVec.toNat).take (nlit hlit))[256]? ≠ some 0)
    (hll : build ((lens.map BitVec.toNat).take (nlit hlit)) false = .ok tl)
    (hd : build ((lens.map BitVec.toNat).drop (nlit hlit)) true = .error e) :
    s.finishLens hlit hdist lens = s.raise e := by
  simp only [State.finishLens, ne_eq, h, not_true, if_false, mt (eob_length_eq_zero_iff h).1 h0, hll, hd]

/-- With both tables the block is open (R184). -/
theorem State.finishLens_opens {tl td : Table} (h : lens.length = nlit hlit + ndist hdist)
    (h0 : ((lens.map BitVec.toNat).take (nlit hlit))[256]? ≠ some 0)
    (hll : build ((lens.map BitVec.toNat).take (nlit hlit)) false = .ok tl)
    (hd : build ((lens.map BitVec.toNat).drop (nlit hlit)) true = .ok td) :
    s.finishLens hlit hdist lens = State.settle { s with llTable := some tl, distTable := some td, bstate := .dynamic } := by
  simp only [State.finishLens, ne_eq, h, not_true, if_false, mt (eob_length_eq_zero_iff h).1 h0, hll, hd]

/-- Settles O14: the element ends the list, and each check that ends the run there is one equation of `finishLens`. -/
theorem codeLengthListEndsInTheTables : Obligations.CodeLengthListEndsInTheTables := by
  intro s hlit hdist tab lens new i hb hm hnew total ll d
  have hfails (hle : total ≤ (lens ++ new).length) {e : ErrCode} (he : s.finishLens hlit hdist (lens ++ new) = s.raise e) :
      ∃ t, exec i s = .next t ∧ FailsWith s t e :=
    ⟨_, exec_fills hb hm hnew hle, he ▸ s.raise_failsWith e⟩
  refine ⟨fun hlt => ?_, fun hlen h0 => ?_, fun e hlen h0 hll => ?_, fun tl e hlen h0 hll hd => ?_,
    fun tl td hlen h0 hll hd => ?_⟩
  · exact hfails hlt.le (State.finishLens_counts hlt.ne')
  · exact hfails hlen.ge (State.finishLens_noEob hlen h0)
  · exact hfails hlen.ge (State.finishLens_llError hlen h0 hll)
  · exact hfails hlen.ge (State.finishLens_distError hlen h0 hll hd)
  · rw [exec_fills hb hm hnew hlen.ge, State.finishLens_opens hlen h0 hll hd]
    rfl

end Sys2Proof.Machine
end

section
/-! PROOFS. The element that is due in a state that meets the invariant (10_state.md R30, R32; 30_encoding.md R91): it can be read, and with
the input ended and the sink ready it is read and run, or raises. -/

namespace Sys2Proof.Machine

variable {s t : State} {f : Format} {c : Ctx} {e : ErrCode}

/-! No table of a state answers a symbol outside its alphabet (log 11). -/

theorem walk_mem {σ : Type} {src : Source σ} {tab : Table} {fuel len code sym : Nat} {u u' : σ}
    (h : walk src tab fuel len code u = some (sym, u')) : ∃ e ∈ tab, e.sym = sym := by
  induction fuel generalizing len code u with
  | zero => cases h
  | succ fuel ih =>
    unfold walk at h
    split at h
    · cases h
    · split at h
      next hfound =>
        cases h
        obtain ⟨e, he, hsym, -⟩ := entry_of_lookup hfound
        exact ⟨e, he, hsym⟩
      · exact ih h

theorem Fits.sym_lt {σ : Type} {src : Source σ} {tab : Table} {n sym : Nat} {u u' : σ} (hfits : Fits n tab)
    (h : decodeSym src tab u = some (sym, u')) : sym < n := by
  obtain ⟨e, he, rfl⟩ := walk_mem h
  exact (hfits e he).2.2.2

theorem clInstr_isSome {sym : Nat} (h : sym < 19) (x : Nat) : (clInstr sym x).isSome := by
  interval_cases sym <;> rfl

theorem llInstr_isSome {sym : Nat} (h : sym < 288) (x : Nat) : (llInstr sym x).isSome := by
  by_cases hlit : sym < 256
  · simp [llInstr, hlit]
  · interval_cases sym <;> rfl

theorem dInstr_isSome {sym : Nat} (h : sym < 32) (x : Nat) : (dInstr sym x).isSome := by
  interval_cases sym <;> rfl

theorem decodeCoded_known {σ : Type} {src : Source σ} {tab : Table} {extra : Nat → Nat} {instr : Nat → Nat → Option Instr}
    {n : Nat} (hfits : Fits n tab) (hi : ∀ sym < n, ∀ x, (instr sym x).isSome) (u : σ) (sym : Nat) :
    decodeCoded src tab extra instr u ≠ .noSuchSymbol sym := by
  unfold decodeCoded
  split
  · simp
  split
  · simp
  next hsym =>
    split
    · simp
    next x _ _ =>
      obtain ⟨i, hsome⟩ := Option.isSome_iff_exists.1 (hi _ (hfits.sym_lt hsym) x)
      simp [hsome]

/-- With a table of its alphabet every context's decoder knows the symbol it reads. -/
theorem decode_known {σ : Type} {src : Source σ} (h : c.ok) (u : σ) (sym : Nat) : decode src c u ≠ .noSuchSymbol sym := by
  cases c with
  | clSym tab p => exact decodeCoded_known h.1 (fun _ hs => clInstr_isSome hs) u sym
  | llSym tab => exact decodeCoded_known h.1 (fun _ hs => llInstr_isSome hs) u sym
  | dSym tab => exact decodeCoded_known h.1 (fun _ hs => dInstr_isSome hs) u sym
  | _ =>
    simp only [decode, Decoded.ofOption, ne_eq]
    split <;> simp

/-! Reading the element. -/

/-- The context a state gives to the element that is due: its table, if it needs one, was made by BUILD for that alphabet, and a raw
byte is due at a byte boundary (R30 (c), R74). -/
structure State.Awaits (s : State) (c : Ctx) : Prop where
  due     : s.point = .element c.format
  ctx     : s.ctx c.format = some c
  ok      : c.ok
  aligned : c.format = .rawByte → s.cur.bitIdx = 0#3

theorem State.Inv.awaits (h : s.Inv) (hp : s.point = .element f) : ∃ c, c.format = f ∧ s.Awaits c := by
  have hd := State.point_element hp
  have hb := State.busy_of_element hp
  have hal := h.aligned_of_wholeBytes hp
  cases f with
  | clLens =>
    obtain ⟨-, hlit, hdist, hclen, hm⟩ := hd
    exact ⟨.clLens (ncl hclen), rfl, hp, by simp [Ctx.format, State.ctx, hm], trivial, fun h => nomatch h⟩
  | clSym =>
    obtain ⟨-, hlit, hdist, tab, lens, hm⟩ := hd
    obtain ⟨-, hbuilt, -⟩ := h.midOk_clSyms hb hm
    exact ⟨.clSym tab lens.isEmpty, rfl, hp, by simp [Ctx.format, State.ctx, hm], buildGivesPrefixCodes _ _ _ hbuilt,
      fun h => nomatch h⟩
  | llSym =>
    obtain ⟨ll, d, hll, -, hbuilt, -⟩ := h.tables hb hd.2.2.1
    exact ⟨.llSym ll, rfl, hp, by simp [Ctx.format, State.ctx, hll], buildGivesPrefixCodes _ _ _ hbuilt, fun h => nomatch h⟩
  | dSym =>
    obtain ⟨-, length, hm⟩ := hd
    obtain ⟨ll, d, -, hdt, -, hbuilt⟩ := h.tables hb (h.midOk_dist hb hm).1
    exact ⟨.dSym d, rfl, hp, by simp [Ctx.format, State.ctx, hdt], buildGivesPrefixCodes _ _ _ hbuilt, fun h => nomatch h⟩
  | rawByte => exact ⟨.rawByte, rfl, hp, rfl, trivial, fun _ => hal rfl⟩
  | zhdr => exact ⟨.zhdr, rfl, hp, rfl, trivial, fun h => nomatch h⟩
  | blkHdr => exact ⟨.blkHdr, rfl, hp, rfl, trivial, fun h => nomatch h⟩
  | storedHdr => exact ⟨.storedHdr, rfl, hp, rfl, trivial, fun h => nomatch h⟩
  | dynHdr => exact ⟨.dynHdr, rfl, hp, rfl, trivial, fun h => nomatch h⟩
  | ztrailer => exact ⟨.ztrailer, rfl, hp, rfl, trivial, fun h => nomatch h⟩

/-- What follows a computation that may raise: the run goes on with its value, or is aborted (R326). -/
def State.orRaise {α : Type} (s : State) (x : Except ErrCode α) (k : α → Host.Outcome State Fault Refusal) :
    Host.Outcome State Fault Refusal :=
  match x with
  | .ok a => k a
  | .error e => .next (s.raise e)

/-- What the decoder answers, as the rules say it where the input has ended: an element, or the error to raise (R147, R173). -/
def elementOf {σ : Type} : Decoded σ → Except ErrCode (Instr × σ)
  | .elem i u => .ok (i, u)
  | .short => .error .ePrematureEnd
  | .emptyTable | .noSuchSymbol _ => .error .eBadSymbol

theorem Ctx.eq_rawByte (h : c.format = .rawByte) : c = .rawByte := by
  cases c with
  | rawByte => rfl
  | _ => cases h

/-- With the input ended and the sink ready the element that is due is read and run. -/
theorem State.Awaits.engine (h : s.Awaits c) (hend : s.inEnded = true) (hsink : s.sinkReady = true) :
    s.engine = s.orRaise (elementOf (decode s.source c s.cur)) fun p => exec p.1 { s with cur := p.2 } := by
  cases hdec : decode s.source c s.cur with
  | elem i cur =>
    exact State.engine_elem h.due (State.fetch_elem.2 ⟨fun hr => hr.2 (h.aligned hr.1), c, cur, h.ctx, hdec, rfl⟩) fun _ => hsink
  | short =>
    have hfetch := State.fetch_short h.aligned h.ctx hdec
    rw [hend] at hfetch
    exact State.engine_error h.due hfetch
  | emptyTable =>
    refine State.engine_error h.due (State.fetch_emptyTable h.ctx hdec fun hf => ?_)
    have hraw : c = .rawByte := Ctx.eq_rawByte hf
    rw [hraw] at hdec
    rcases hread : readRawByte s.source s.cur with _ | p <;> simp [decode, hread, Decoded.ofOption] at hdec
  | noSuchSymbol sym => exact absurd hdec (decode_known h.ok _ _)

end Sys2Proof.Machine
end

section
/-! PROOFS. Reading an element uses up input (40_bitstream_reader.md R148): the bits the cursor has not passed are fewer after it. -/

namespace Sys2Proof

open Machine

variable {fetch : Nat → Option Byte} {c c' : Cursor} {n : Nat}

/-- The bits of `n` delivered bytes that a cursor has not passed (R148). -/
def Machine.Cursor.unread (c : Cursor) (n : Nat) : Nat := 8 * n - c.bitAddr

/-- From one cursor to another the reader has taken bits of the first `n` bytes. -/
structure Machine.Cursor.Advances (fetch : Nat → Option Byte) (n : Nat) (c c' : Cursor) : Prop where
  ok : CursorOk fetch c'
  lt : c'.unread n < c.unread n

section
variable (hn : ∀ p b, fetch p = some b → p < n)
include hn

theorem Machine.nextBit_advances {b : Bool} (hc : CursorOk fetch c) (h : nextBit fetch c = some (b, c')) :
    c.Advances fetch n c' := by
  obtain ⟨hin, hok, haddr⟩ := nextBit_some hc h
  obtain ⟨byte, hbyte, -⟩ := Option.map_eq_some_iff.1 hin
  have hlt := hn _ _ hbyte
  exact ⟨hok, by rw [Cursor.unread, Cursor.unread, haddr]; omega⟩

/-- Further bits leave no more bits unread. -/
theorem Machine.cursorSource_keeps_unread (k : Nat) :
    (cursorSource fetch).Keeps fun c => CursorOk fetch c ∧ c.unread n ≤ k := by
  rintro c b c' hbit ⟨hc, hk⟩
  have h := nextBit_advances hn hc hbit
  exact ⟨h.ok, h.lt.le.trans hk⟩

theorem Machine.eatBits_advances {k v : Nat} (hk : 0 < k) (hc : CursorOk fetch c)
    (h : eatBits (cursorSource fetch) k c = some (v, c')) : c.Advances fetch n c' := by
  obtain ⟨k, rfl⟩ := Nat.exists_eq_add_of_lt hk
  rw [Nat.zero_add, eatBits_succ] at h
  simp only [Option.bind_eq_some_iff, Option.map_eq_some_iff, Prod.mk.injEq] at h
  obtain ⟨⟨b, c1⟩, hbit, ⟨w, _⟩, hrest, -, rfl⟩ := h
  have h1 := nextBit_advances hn hc hbit
  obtain ⟨hok, hle⟩ := (cursorSource_keeps_unread hn _).eatBits hrest ⟨h1.ok, le_rfl⟩
  exact ⟨hok, hle.trans_lt h1.lt⟩

theorem Machine.walk_advances {t : Table} {fuel len code sym : Nat} (hc : CursorOk fetch c)
    (h : walk (cursorSource fetch) t fuel len code c = some (sym, c')) : c.Advances fetch n c' := by
  induction fuel generalizing len code c with
  | zero => cases h
  | succ fuel ih =>
    unfold walk at h
    split at h
    · cases h
    next hbit =>
      have h1 := nextBit_advances hn hc hbit
      split at h
      · cases h; exact h1
      · have h2 := ih h1.ok h
        exact ⟨h2.ok, h2.lt.trans h1.lt⟩

theorem decodeCoded_advances {t : Table} {extra : Nat → Nat} {instr : Nat → Nat → Option Instr} {i : Instr}
    (hc : CursorOk fetch c) (h : decodeCoded (cursorSource fetch) t extra instr c = .elem i c') : c.Advances fetch n c' := by
  obtain ⟨-, sym, c1, hsym, x, hx, -⟩ := decodeCoded_elem.1 h
  have h1 := walk_advances hn hc hsym
  obtain ⟨hok, hle⟩ := (cursorSource_keeps_unread hn _).eatBits hx ⟨h1.ok, le_rfl⟩
  exact ⟨hok, hle.trans_lt h1.lt⟩

/-- Every element has at least one bit. -/
theorem decode_advances {ctx : Ctx} {i : Instr} (hc : CursorOk fetch c) (hraw : ctx = .rawByte → c.bitIdx = 0#3)
    (hcl : ctx ≠ .clLens 0) (h : decode (cursorSource fetch) ctx c = .elem i c') : c.Advances fetch n c' := by
  have htrans {c1 : Cursor} (h1 : c.Advances fetch n c1) (h2 : CursorOk fetch c' ∧ c'.unread n ≤ c1.unread n) :
      c.Advances fetch n c' := ⟨h2.1, h2.2.trans_lt h1.lt⟩
  have hkeeps := cursorSource_keeps_unread hn
  cases ctx with
  | zhdr =>
    obtain ⟨_, c1, h1, _, h2, -⟩ := readZhdr_some.1 (Decoded.ofOption_elem.1 h)
    have h1 := eatBits_advances hn (by decide) hc h1
    exact htrans h1 ((hkeeps _).eatBits h2 ⟨h1.ok, le_rfl⟩)
  | blkHdr =>
    obtain ⟨_, c1, h1, _, h2, -⟩ := readBlkHdr_some.1 (Decoded.ofOption_elem.1 h)
    have h1 := eatBits_advances hn (by decide) hc h1
    exact htrans h1 ((hkeeps _).eatBits h2 ⟨h1.ok, le_rfl⟩)
  | storedHdr =>
    obtain ⟨_, c1, h1, _, h2, -⟩ := readStoredHdr_some.1 (Decoded.ofOption_elem.1 h)
    have h1 := eatBits_advances hn (by decide) hc h1
    exact htrans h1 ((hkeeps _).eatBits h2 ⟨h1.ok, le_rfl⟩)
  | dynHdr =>
    obtain ⟨_, c1, h1, _, c2, h2, _, h3, -⟩ := readDynHdr_some.1 (Decoded.ofOption_elem.1 h)
    have h1 := eatBits_advances hn (by decide) hc h1
    exact htrans h1 ((hkeeps _).eatBits h3 ((hkeeps _).eatBits h2 ⟨h1.ok, le_rfl⟩))
  | clLens k =>
    obtain ⟨vs, h1, -⟩ := readClLens_some.1 (Decoded.ofOption_elem.1 h)
    obtain ⟨k, rfl⟩ := Nat.exists_eq_succ_of_ne_zero fun h0 => hcl (congrArg Ctx.clLens h0)
    obtain ⟨v, c1, h1, tail, h2, -⟩ := eatFields_succ.1 h1
    have h1 := eatBits_advances hn (by decide) hc h1
    exact htrans h1 ((hkeeps _).eatFields h2 ⟨h1.ok, le_rfl⟩)
  | rawByte =>
    obtain ⟨b, h1, -⟩ := readRawByte_some.1 (Decoded.ofOption_elem.1 h)
    obtain ⟨hbyte, rfl⟩ := nextRaw_some.1 h1
    have hidx : c.bitIdx = 0#3 := hraw rfl
    have hlt := hn _ _ hbyte
    refine ⟨fun h => absurd hidx h, ?_⟩
    show Cursor.unread { c with inPos := c.inPos + 1 } n < c.unread n
    rw [Cursor.unread, Cursor.unread, Cursor.bitAddr_of_aligned hidx, Cursor.bitAddr_of_aligned (by exact hidx)]
    show 8 * n - 8 * (c.inPos + 1) < 8 * n - 8 * c.inPos
    omega
  | ztrailer =>
    obtain ⟨_, h1, -⟩ := readZtrailer_some.1 (Decoded.ofOption_elem.1 h)
    exact eatBits_advances hn (by decide) hc h1
  | clSym | llSym | dSym => exact decodeCoded_advances hn hc h

end

theorem Machine.Cursor.align_unread (hc : CursorOk fetch c) : c.align.unread n ≤ c.unread n := by
  rw [unread, unread, align_bitAddr hc]
  omega

end Sys2Proof
end

section
/-! PROOFS. With the input ended and the sink ready every step of a run uses up input, or shortens the copy, or ends the body, settling
O52. -/

namespace Sys2Proof.Machine

variable {s t u : State} {f : Format} {i : Instr}

/-- After an element the run has failed, or it goes on or is done and the cursor is where the read left it or at the next byte
boundary. -/
def State.Continues (s t : State) : Prop :=
  t.phase = .failed ∨ (t.phase.busy = true ∨ t.phase = .done) ∧ (t.cur = s.cur ∨ t.cur = s.cur.align)

theorem State.Continues.of_whenDue (h : s.whenDue f (.next u) = .next t) (hu : s.Continues u) : s.Continues t := by
  obtain ⟨-, rfl⟩ : s.point = .element f ∧ t = u := by simpa only [whenDue_next, next_eq_next] using h
  exact hu

/-- An effect that writes neither the phase nor the cursor. -/
theorem State.continues_of_eq (hb : s.phase.busy = true) (hp : t.phase = s.phase) (hc : t.cur = s.cur) : s.Continues t :=
  .inr ⟨.inl (hp ▸ hb), .inl hc⟩

theorem State.finishLens_continues (hb : s.phase.busy = true) (hlit hdist : BitVec 5) (lens : List (BitVec 4)) :
    s.Continues (s.finishLens hlit hdist lens) := by
  obtain ⟨e, h, -⟩ | ⟨ll, d, -, -, -, h⟩ := s.finishLens_cases hlit hdist lens <;> rw [h]
  · exact .inl rfl
  · exact continues_of_eq hb rfl rfl

theorem State.codeLengths_continues (hb : s.phase.busy = true) {produce : List (BitVec 4) → Option (List (BitVec 4))}
    (h : s.codeLengths produce = .next t) : s.Continues t := by
  obtain ⟨hlit, hdist, tab, lens, -, -, ⟨-, rfl⟩ | ⟨new, -, ⟨-, rfl⟩ | ⟨-, rfl⟩⟩⟩ := codeLengths_next.1 h
  · exact .inl rfl
  · exact continues_of_eq hb rfl rfl
  · exact s.finishLens_continues hb hlit hdist (lens ++ new)

theorem State.distanceSymbol_continues (hb : s.phase.busy = true) {distance : BitVec 16}
    (h : s.distanceSymbol distance = .next t) : s.Continues t := by
  obtain ⟨length, -, -, rfl⟩ := distanceSymbol_next.1 h
  obtain ⟨-, h⟩ | ⟨-, -, -, h⟩ := s.startCopy_cases length distance <;> rw [h]
  · exact .inl rfl
  · exact continues_of_eq hb rfl rfl

/-- Only BLK_STORED moves the cursor the read has left, to the byte boundary (R206). -/
theorem exec_continues (hb : s.phase.busy = true) (h : exec i s = .next t) : s.Continues t := by
  cases i with
  | blkStored => exact .of_whenDue h (.inr ⟨.inl hb, .inr rfl⟩)
  | blkFixed | blkDynamic | dynHdr | rawByte | lit | eob => exact .of_whenDue h (State.continues_of_eq hb rfl rfl)
  | blkReserved | llInvalid | distInvalid => exact .of_whenDue h (.inl rfl)
  | storedHdr =>
    refine .of_whenDue h ?_
    split
    · exact .inl rfl
    · exact State.continues_of_eq hb rfl rfl
  | clLens =>
    obtain ⟨hlit, hdist, hclen, -, -, -, ⟨e, -, rfl⟩ | ⟨tab, -, rfl⟩⟩ := execClLens_next.1 h
    · exact .inl rfl
    · exact State.continues_of_eq hb rfl rfl
  | clLen | clCopy | clZero3 | clZero11 => exact State.codeLengths_continues hb ((exec_clSym rfl).symm.trans h)
  | len257 | len258 | len259 | len260 | len261 | len262 | len263 | len264 | len265 | len266 | len267 | len268 | len269
  | len270 | len271 | len272 | len273 | len274 | len275 | len276 | len277 | len278 | len279 | len280 | len281 | len282
  | len283 | len284 | len285 => exact .of_whenDue h (State.continues_of_eq hb rfl rfl)
  | dist0 | dist1 | dist2 | dist3 | dist4 | dist5 | dist6 | dist7 | dist8 | dist9 | dist10 | dist11 | dist12 | dist13
  | dist14 | dist15 | dist16 | dist17 | dist18 | dist19 | dist20 | dist21 | dist22 | dist23 | dist24 | dist25 | dist26
  | dist27 | dist28 | dist29 => exact State.distanceSymbol_continues hb h
  | zhdr =>
    refine .of_whenDue h ?_
    split
    · exact .inl rfl
    · exact .inr ⟨.inl rfl, .inl rfl⟩
  | ztrailer =>
    refine .of_whenDue h ?_
    split
    · exact .inl rfl
    · exact .inr ⟨.inr rfl, .inl rfl⟩

/-- A state of the invariant with nothing to wait for: the input has ended and the sink is ready (R81, R356). -/
structure State.Supplied (s : State) : Prop where
  inv   : s.Inv
  ended : s.inEnded = true
  sink  : s.sinkReady = true

namespace State

theorem Supplied.engine (h : s.Supplied) (ht : s.engine = .next t) : t.Supplied := by
  obtain ⟨bytes, -, hemits⟩ := engine_emits ht
  exact ⟨h.inv.engine ht, hemits.inEnded.trans h.ended, hemits.sinkReady.trans h.sink⟩

theorem inByte_lt (p : Nat) (b : Byte) (h : s.inByte p = some b) : p < s.inLen := by
  unfold inByte at h
  split at h
  · assumption
  · cases h

/-- The cursor of a run stands inside a delivered byte or at a boundary (R21). -/
theorem Inv.cursorOk (h : s.Inv) (hb : s.phase.busy = true) : CursorOk s.inByte s.cur := by
  intro hidx
  obtain ⟨hpos, hread⟩ := h.cursor hb hidx
  exact ⟨hpos, (if_pos (Mem.addr_lt h.input (Mem.mem_of_read hread))).trans hread⟩

/-- An element that is due is read and run, or the run fails; reading it uses up input. -/
theorem Supplied.engine_element (h : s.Supplied) (hp : s.point = .element f) :
    ∃ t, s.engine = .next t ∧
      (t.phase = .failed ∨ (t.phase.busy = true ∨ t.phase = .done) ∧ t.unreadBits < s.unreadBits) := by
  obtain ⟨c, rfl, hc⟩ := h.inv.awaits hp
  have hb := busy_of_element hp
  rw [hc.engine h.ended h.sink]
  cases hdec : decode s.source c s.cur with
  | short | emptyTable | noSuchSymbol => exact ⟨_, rfl, .inl rfl⟩
  | elem i cur =>
    have hcl : c ≠ .clLens 0 := by
      rintro rfl
      obtain ⟨-, hlit, hdist, hclen, hm⟩ := point_element hp
      have hctx := hc.ctx
      simp [Ctx.format, State.ctx, hm, ncl] at hctx
    have hadv := decode_advances inByte_lt (h.inv.cursorOk hb) (fun hr => hc.aligned (by rw [hr]; rfl)) hcl hdec
    have hlens : ∀ lens hlit hdist hclen, i = .clLens lens → s.mid = .clLens hlit hdist hclen → lens.length = ncl hclen := by
      rintro lens hlit hdist hclen rfl hm
      have hf := decode_format hdec
      have hctx := hc.ctx
      rw [← hf] at hctx
      obtain rfl : c = .clLens (ncl hclen) := by simpa [Instr.format, State.ctx, hm, eq_comm] using hctx
      exact decode_clLens hdec
    obtain ⟨t, ht⟩ := exec_completes (s := { s with cur := cur }) (i := i) (by rw [decode_format hdec]; exact hp) hlens
    refine ⟨t, ht, (exec_continues (s := { s with cur := cur }) hb ht).imp_right fun ⟨hphase, hcur⟩ => ⟨hphase, ?_⟩⟩
    have hlen : t.inLen = s.inLen := (exec_emits ht).inLen
    have hle : t.cur.unread s.inLen ≤ cur.unread s.inLen := by
      obtain hcur | hcur := hcur <;> rw [hcur]
      exact Cursor.align_unread hadv.ok
    rw [unreadBits, hlen]
    exact hle.trans_lt hadv.lt

/-- A copy reads a byte of the run (R254). -/
theorem Supplied.engine_copy (h : s.Supplied) (hp : s.point = .copy) :
    ∃ b, s.engine = .next (State.settle { s.push b with copyLen := s.copyLen - 1#9 }) := by
  obtain ⟨hbody, -, -, hlen⟩ := point_copy hp
  have hb : s.phase.busy = true := by rw [hbody]; rfl
  obtain ⟨-, -, hpos, hdist⟩ := h.inv.copy hb hlen
  obtain ⟨hout, hread⟩ := h.inv.history hb
  have hlt : s.copyDist.toNat - 1 < min s.totalOut Config.windowSize := by
    simp only [Config.maxDist, Config.windowSize] at hdist ⊢
    omega
  have hcell := hread _ hlt
  rw [Nat.sub_add_cancel hpos, BitVec.ofNat_toNat, BitVec.setWidth_eq, List.getElem?_eq_getElem (by omega)] at hcell
  exact ⟨_, engine_next.2 (.inr (.inr (.inr (.inl ⟨hp, h.sink, copyStep_next.2 ⟨_, hcell, rfl⟩⟩))))⟩

theorem engine_bodyEnd (hp : s.point = .bodyEnd) : s.engine = .next s.finishBody :=
  engine_next.2 (.inr (.inl ⟨hp, rfl⟩))

/-- What is left to do in a run: the unread bits weigh more than the longest copy, the body one more than the trailer. -/
def work (s : State) : Nat := 1024 * s.unreadBits + s.copyLen.toNat + if s.phase = .body then 1 else 0

theorem bodyPoint_ne_idle (s : State) : s.bodyPoint ≠ .idle := by
  unfold bodyPoint
  cases s.bstate with
  | between => cases s.finalSeen <;> simp
  | stored => simp
  | fixed | dynamic => by_cases h : s.copyLen = 0#9 <;> simp [h]

theorem point_ne_idle (hb : s.phase.busy = true) : s.point ≠ .idle := by
  unfold point
  cases hp : s.phase with
  | idle | done | failed => simp [hp, Phase.busy] at hb
  | zhdr | ztrailer => simp
  | body =>
    cases s.mid with
    | settled => exact s.bodyPoint_ne_idle
    | _ => simp

/-- Every step of a run ends it or leaves less to do. -/
theorem Supplied.engine_work (h : s.Supplied) (hb : s.phase.busy = true) :
    ∃ t, s.engine = .next t ∧ (t.phase = .done ∨ t.phase = .failed ∨ t.phase.busy = true ∧ t.work < s.work) := by
  cases hp : s.point with
  | idle => exact absurd hp (point_ne_idle hb)
  | element f =>
    obtain ⟨t, ht, hfail | ⟨hbusy | hdone, hlt⟩⟩ := h.engine_element hp
    · exact ⟨t, ht, .inr (.inl hfail)⟩
    · refine ⟨t, ht, .inr (.inr ⟨hbusy, ?_⟩)⟩
      have hcopy := t.copyLen.isLt
      have hone : (if t.phase = .body then 1 else 0) ≤ 1 := by split <;> decide
      unfold work
      omega
    · exact ⟨t, ht, .inl hdone⟩
  | copy =>
    obtain ⟨b, hstep⟩ := h.engine_copy hp
    obtain ⟨hbody, -, -, hlen⟩ := point_copy hp
    refine ⟨_, hstep, .inr (.inr ⟨hb, ?_⟩)⟩
    have hless : (s.copyLen - 1#9).toNat < s.copyLen.toNat := by bv_omega
    exact Nat.add_lt_add_right (Nat.add_lt_add_left hless _) _
  | bodyEnd =>
    refine ⟨_, engine_bodyEnd hp, ?_⟩
    obtain ⟨hbody, -, -⟩ := point_bodyEnd hp
    have halign : s.cur.align.unread s.inLen ≤ s.cur.unread s.inLen := Cursor.align_unread (h.inv.cursorOk hb)
    unfold finishBody
    split
    · exact .inl rfl
    · refine .inr (.inr ⟨rfl, ?_⟩)
      show 1024 * s.cur.align.unread s.inLen + s.copyLen.toNat + 0 < s.work
      rw [work, if_pos hbody, show s.unreadBits = s.cur.unread s.inLen from rfl]
      omega

end State

theorem core_run_succ {n : Nat} (h : step s = .next t) : core.run (n + 1) s = core.run n t := by
  have hstep : core.step s = .next t := h
  simp only [Host.Core.run, hstep]

/-- Settles O52, by induction on the work that is left. -/
theorem everyRunEnds : Obligations.EveryRunEnds := by
  intro s hinv hops hb hend hsink
  induction hw : s.work using Nat.strong_induction_on generalizing s with
  | _ w ih =>
    have hs : s.Supplied := ⟨hinv, hend, hsink⟩
    obtain ⟨t, ht, hcases⟩ := hs.engine_work hb
    have hrun (n : Nat) : core.run (n + 1) s = core.run n t := core_run_succ ((step_engine hops).trans ht)
    obtain hdone | hfail | ⟨hbusy, hlt⟩ := hcases
    · exact ⟨1, t, hrun 0, .inl hdone⟩
    · exact ⟨1, t, hrun 0, .inr hfail⟩
    · obtain ⟨bytes, -, hemits⟩ := State.engine_emits ht
      have hsup := hs.engine ht
      obtain ⟨n, u, hu, hphase⟩ :=
        ih _ (hw ▸ hlt) t hsup.inv (hemits.hostOps.trans hops) hbusy hsup.ended hsup.sink rfl
      exact ⟨n + 1, u, (hrun n).trans hu, hphase⟩

end Sys2Proof.Machine
end

section
/-! PROOFS. What the elements of the block engine do where they are due (42_block_engine.md R204 to R238), settling O7 to O11, O16 to O19,
O21 to O23 and O32. -/

namespace Sys2Proof.Machine

variable {s : State} {length : BitVec 9}

/-! Block headers and stored blocks (R205 to R210). -/

section
variable (h : s.point = .element .blkHdr) (bfinal : Bool)
include h

theorem exec_blkStored :
    exec (.blkStored bfinal) s = .next { s with finalSeen := bfinal, cur := s.cur.align, mid := .storedHdr } :=
  State.whenDue_due h

theorem exec_blkFixed :
    exec (.blkFixed bfinal) s = .next (State.settle
      { s with finalSeen := bfinal, llTable := some fixedLL, distTable := some fixedD, bstate := .fixed }) :=
  State.whenDue_due h

theorem exec_blkDynamic : exec (.blkDynamic bfinal) s = .next { s with finalSeen := bfinal, mid := .dynHdr } :=
  State.whenDue_due h

theorem exec_blkReserved : exec (.blkReserved bfinal) s = .next (s.raise .eBtypeReserved) :=
  State.whenDue_due h

end

theorem exec_storedHdr (h : s.point = .element .storedHdr) (len nlen : BitVec 16) :
    exec (.storedHdr len nlen) s = .next (if nlen = ~~~len
      then State.settle { s with rawRemaining := len, bstate := if len = 0#16 then .between else .stored }
      else s.raise .eStoredLen) :=
  (State.whenDue_due h).trans (by rw [ite_not])

theorem exec_rawByte (h : s.point = .element .rawByte) (b : Byte) :
    exec (.rawByte b) s = .next (State.settle
      { s.push b with
        rawRemaining := s.rawRemaining - 1#16
        bstate := if s.rawRemaining - 1#16 = 0#16 then .between else s.bstate }) :=
  State.whenDue_due h

/-- PUSH with the two sums written out (R251, R289). -/
theorem push_eq (s : State) (b : Byte) :
    s.push b = { s with
      window := s.window.write s.wpos.toNat b, wpos := s.wpos + 1#16, totalOut := s.totalOut + 1,
      adlerA := BitVec.ofNat 16 ((s.adlerA.toNat + b.toNat) % 65521),
      adlerB := BitVec.ofNat 16 ((s.adlerB.toNat + (s.adlerA.toNat + b.toNat) % 65521) % 65521),
      out := s.out ++ [b] } := by
  rw [State.push, adlerNextB, adlerNextA_toNat]
  rfl

/-- Settles O7, by the effect of each header. -/
theorem blockHeadersOpenTheirDescriptions : Obligations.BlockHeadersOpenTheirDescriptions :=
  fun _ f h => ⟨exec_blkStored h f, exec_blkDynamic h f⟩

/-- Settles O8, by the effect of the header. -/
theorem fixedBlockInstallsTheFixedTables : Obligations.FixedBlockInstallsTheFixedTables :=
  fun _ f h => exec_blkFixed h f

/-- Settles O9: the effect is a `raise`. -/
theorem reservedBlockTypeFails : Obligations.ReservedBlockTypeFails :=
  fun s f h => ⟨_, exec_blkReserved h f, s.raise_failsWith .eBtypeReserved⟩

/-- Settles O10, by the two cases of the complement check. -/
theorem storedHeaderChecksTheComplement : Obligations.StoredHeaderChecksTheComplement := by
  intro s len nlen h
  rw [exec_storedHdr h]
  refine ⟨fun heq => ?_, fun hne => ?_⟩
  · rw [if_pos heq]
    rfl
  · rw [if_neg hne]
    exact ⟨_, rfl, s.raise_failsWith .eStoredLen⟩

/-- Settles O11: the count reaches 0 from 1 only. -/
theorem rawByteIsEmittedAndCountedOff : Obligations.RawByteIsEmittedAndCountedOff := by
  intro s b h
  have hone : s.rawRemaining - 1#16 = 0#16 ↔ s.rawRemaining = 1#16 := by bv_omega
  rw [exec_rawByte h, push_eq]
  simp only [hone]
  rfl

/-! Literal/length symbols (R211 to R222). -/

section
variable (h : s.point = .element .llSym)
include h

theorem exec_lit (b : Byte) : exec (.lit b) s = .next (State.settle (s.push b)) :=
  State.whenDue_due h

theorem exec_eob :
    exec .eob s = .next (State.settle { s with bstate := .between, llTable := none, distTable := none }) :=
  State.whenDue_due h

theorem exec_llInvalid (b0 : BitVec 1) : exec (.llInvalid b0) s = .next (s.raise .eBadSymbol) :=
  State.whenDue_due h

end

/-- Settles O16, by the effect of PUSH. -/
theorem literalIsEmitted : Obligations.LiteralIsEmitted := by
  intro s b h
  rw [exec_lit h, push_eq]
  rfl

/-- Settles O17: the block is left for the place between blocks. -/
theorem endOfBlockReturnsToBetween : Obligations.EndOfBlockReturnsToBetween := by
  intro s h
  refine ⟨exec_eob h, fun t ht => ?_⟩
  obtain rfl := next_eq_next.1 ((exec_eob h).symm.trans ht)
  obtain ⟨hbody, -⟩ := State.point_element h
  simp [State.point, State.bodyPoint, hbody]

theorem lengthSymbol_due (h : s.point = .element .llSym) (length : BitVec 9) :
    s.lengthSymbol length = .next { s with mid := .dist length } :=
  State.lengthSymbol_next.2 ⟨h, rfl⟩

/-- Settles O18, by the length of each symbol. -/
theorem lengthSymbolsWithoutExtraBits : Obligations.LengthSymbolsWithoutExtraBits := by
  refine ⟨fun sym _ h => if_pos (by omega), rfl, fun s h => ?_⟩
  have hlen := lengthSymbol_due h
  exact ⟨hlen _, hlen _, hlen _, hlen _, hlen _, hlen _, hlen _, hlen _, hlen _⟩

/-- Settles O19, by the base and the extra bits of each symbol. -/
theorem lengthSymbolsWithExtraBits : Obligations.LengthSymbolsWithExtraBits := by
  refine ⟨rfl, fun s h => ?_⟩
  have hlen {w : Nat} (base : Nat) (x : BitVec w) := lengthSymbol_due h (lengthOf base x)
  exact ⟨hlen 11, hlen 13, hlen 15, hlen 17, hlen 19, hlen 23, hlen 27, hlen 31, hlen 35, hlen 43, hlen 51, hlen 59, hlen 67,
    hlen 83, hlen 99, hlen 115, hlen 131, hlen 163, hlen 195, hlen 227⟩

/-! Distance symbols (R223 to R239). -/

theorem exec_distInvalid (h : s.point = .element .dSym) (b0 : BitVec 1) :
    exec (.distInvalid b0) s = .next (s.raise .eBadSymbol) :=
  State.whenDue_due h

/-- Settles O21: both effects are a `raise`. -/
theorem invalidSymbolsFail : Obligations.InvalidSymbolsFail :=
  ⟨fun s b0 h => ⟨_, exec_llInvalid h b0, s.raise_failsWith .eBadSymbol⟩,
    fun s b0 _ hb hm => ⟨_, exec_distInvalid (State.point_dist hb hm) b0, s.raise_failsWith .eBadSymbol⟩⟩

/-- A distance that lies inside the run starts the copy (R239). -/
theorem distanceSymbol_copying (hb : s.phase = .body) (hm : s.mid = .dist length) (hl : length ≠ 0#9) {distance : Nat}
    (h1 : 1 ≤ distance) (h2 : distance ≤ 32768) (hle : distance ≤ s.totalOut) :
    s.distanceSymbol (BitVec.ofNat 16 distance) = .next (s.copying length distance) := by
  rw [State.distanceSymbol_dist hb hm hl h1 h2, if_neg hle.not_gt]

theorem distanceOf_copying (hb : s.phase = .body) (hm : s.mid = .dist length) (hl : length ≠ 0#9) {w : Nat} (base : Nat)
    (hbase : 1 ≤ base ∧ base + 2 ^ w ≤ 32769) (x : BitVec w) (hle : base + x.toNat ≤ s.totalOut) :
    s.distanceSymbol (distanceOf base x) = .next (s.copying length (base + x.toNat)) := by
  have hx := x.isLt
  exact distanceSymbol_copying hb hm hl (by omega) (by omega) hle

/-- Settles O22, by the base and the extra bits of each symbol. -/
theorem shortDistancesStartTheCopy : Obligations.ShortDistancesStartTheCopy := by
  refine ⟨rfl, fun s length hb hm hl => ?_⟩
  have hcopy {distance : Nat} := distanceSymbol_copying (distance := distance) hb hm hl
  have hextra {w : Nat} := distanceOf_copying (w := w) hb hm hl
  exact ⟨hcopy (by decide) (by decide), hcopy (by decide) (by decide), hcopy (by decide) (by decide),
    hcopy (by decide) (by decide), hextra 5 (by decide), hextra 7 (by decide), hextra 9 (by decide), hextra 13 (by decide),
    hextra 17 (by decide), hextra 25 (by decide), hextra 33 (by decide), hextra 49 (by decide), hextra 65 (by decide),
    hextra 97 (by decide), hextra 129 (by decide), hextra 193 (by decide)⟩

/-- Settles O23, by the base and the extra bits of each symbol. -/
theorem longDistancesStartTheCopy : Obligations.LongDistancesStartTheCopy := by
  refine ⟨rfl, fun s length hb hm hl => ?_⟩
  have hextra {w : Nat} := distanceOf_copying (w := w) hb hm hl
  exact ⟨hextra 257 (by decide), hextra 385 (by decide), hextra 513 (by decide), hextra 769 (by decide),
    hextra 1025 (by decide), hextra 1537 (by decide), hextra 2049 (by decide), hextra 3073 (by decide),
    hextra 4097 (by decide), hextra 6145 (by decide), hextra 8193 (by decide), hextra 12289 (by decide),
    hextra 16385 (by decide), hextra 24577 (by decide)⟩

/-! The end of the body (R204, R268). -/

theorem State.finishBody_raw (h : s.mode = .raw) :
    s.finishBody = State.settle { s with cur := s.cur.align, endPos := s.cur.inPos, phase := .done } := by
  rw [State.finishBody, h]

theorem State.finishBody_zlib (h : s.mode = .zlib) :
    s.finishBody = State.settle { s with cur := s.cur.align, phase := .ztrailer } := by
  rw [State.finishBody, h]

/-- Settles O32, by what END does in each mode. -/
theorem endOfBodyAlignsAndCompletes : Obligations.EndOfBodyAlignsAndCompletes := by
  intro s hops hp
  rw [step_engine hops, State.engine_bodyEnd hp]
  refine ⟨fun hm => ?_, fun hm => ?_⟩
  · rw [State.finishBody_raw hm]
    rfl
  · rw [State.finishBody_zlib hm]
    rfl

end Sys2Proof.Machine
end

section
/-! PROOFS. Reading an element, as the rules write it: one read after the other, each of which may raise (40_bitstream_reader.md R147;
42_block_engine.md R205 to R223). -/

namespace Sys2Proof.Machine

variable {α β : Type} {s : State}

theorem State.orRaise_bind (s : State) (x : Except ErrCode α) (f : α → Except ErrCode β)
    (k : β → Host.Outcome State Fault Refusal) : s.orRaise (x >>= f) k = s.orRaise x fun a => s.orRaise (f a) k := by
  cases x <;> rfl

theorem State.orRaise_congr {x : Except ErrCode α} {k k' : α → Host.Outcome State Fault Refusal}
    (h : ∀ a, x = .ok a → k a = k' a) : s.orRaise x k = s.orRaise x k' := by
  cases x with
  | ok a => exact h a rfl
  | error e => rfl

theorem need_eq_ok {o : Option α} {a : α} : need o = .ok a ↔ o = some a := by
  cases o <;> simp [need]

@[simp] theorem need_none : need (none : Option α) = .error .ePrematureEnd := rfl

@[simp] theorem need_some (a : α) : need (some a) = .ok a := rfl

@[simp] theorem error_bind (e : ErrCode) (f : α → Except ErrCode β) : .error e >>= f = .error e := rfl

@[simp] theorem ok_bind (a : α) (f : α → Except ErrCode β) : .ok a >>= f = f a := rfl

end Sys2Proof.Machine
end

section
/-! PROOFS. The elements of a block, read by read (30_encoding.md R92 to R103; 42_block_engine.md R205 to R223). -/

namespace Sys2Proof.Machine

variable {src : Source Cursor} {cur : Cursor}

/-! The elements, read by read. -/

theorem refDecode_sym_lt {tab : Table} {k : Nat} {p : Nat × Cursor} (hfits : Fits k tab)
    (h : refDecode src tab cur = .ok p) : p.1 < k := by
  rw [refDecode] at h
  split at h
  · cases h
  · exact hfits.sym_lt (need_eq_ok.1 h)

theorem elementOf_eq_ok {σ : Type} {d : Decoded σ} {i : Instr} {u : σ} : elementOf d = .ok (i, u) ↔ d = .elem i u := by
  cases d <;> simp [elementOf]

theorem elementOf_blkHdr :
    elementOf (decode src .blkHdr cur) =
      need (eatBits src 1 cur) >>= fun p => need (eatBits src 2 p.2) >>= fun q => .ok (blkInstr p.1 q.1, q.2) := by
  rw [decode, readBlkHdr]
  rcases eatBits src 1 cur with _ | ⟨bfinal, c1⟩
  · rfl
  · dsimp only [need_some, ok_bind]
    rcases eatBits src 2 c1 with _ | q <;> rfl

theorem elementOf_storedHdr :
    elementOf (decode src .storedHdr cur) =
      need (eatBits src 16 cur) >>= fun p => need (eatBits src 16 p.2) >>= fun q =>
        .ok (.storedHdr (BitVec.ofNat 16 p.1) (BitVec.ofNat 16 q.1), q.2) := by
  rw [decode, readStoredHdr]
  rcases eatBits src 16 cur with _ | ⟨len, c1⟩
  · rfl
  · dsimp only [need_some, ok_bind]
    rcases eatBits src 16 c1 with _ | q <;> rfl

theorem elementOf_dynHdr :
    elementOf (decode src .dynHdr cur) =
      need (eatBits src 5 cur) >>= fun p => need (eatBits src 5 p.2) >>= fun q => need (eatBits src 4 q.2) >>= fun r =>
        .ok (.dynHdr (BitVec.ofNat 5 p.1) (BitVec.ofNat 5 q.1) (BitVec.ofNat 4 r.1), r.2) := by
  rw [decode, readDynHdr]
  rcases eatBits src 5 cur with _ | ⟨hlit, c1⟩
  · rfl
  · dsimp only [need_some, ok_bind]
    rcases eatBits src 5 c1 with _ | ⟨hdist, c2⟩
    · rfl
    · dsimp only [need_some, ok_bind]
      rcases eatBits src 4 c2 with _ | r <;> rfl

theorem elementOf_clLens :
    elementOf (decode src (.clLens n) cur) =
      need (eatFields src 3 n cur) >>= fun p => .ok (.clLens (p.1.map (BitVec.ofNat 3)), p.2) := by
  rw [decode, readClLens]
  rcases eatFields src 3 n cur with _ | p <;> rfl

theorem elementOf_rawByte :
    elementOf (decode src .rawByte cur) = need (src.byte cur) >>= fun p => .ok (.rawByte p.1, p.2) := by
  rw [decode, readRawByte]
  rcases src.byte cur with _ | p <;> rfl

/-- A symbol and its extra bits (R92). -/
theorem elementOf_decodeCoded {tab : Table} {extra : Nat → Nat} {instr : Nat → Nat → Option Instr} :
    elementOf (decodeCoded src tab extra instr cur) =
      refDecode src tab cur >>= fun p => need (eatBits src (extra p.1) p.2) >>= fun q =>
        (instr p.1 q.1).elim (.error .eBadSymbol) fun i => .ok (i, q.2) := by
  rw [decodeCoded, refDecode]
  cases tab.isEmpty with
  | true => rfl
  | false =>
    rcases decodeSym src tab cur with _ | ⟨sym, c1⟩
    · rfl
    · simp only [Bool.false_eq_true, if_false, need_some, ok_bind]
      rcases eatBits src (extra sym) c1 with _ | ⟨x, c2⟩
      · rfl
      · dsimp only [need_some, ok_bind]
        rcases instr sym x with _ | i <;> rfl

end Sys2Proof.Machine
end

section
/-! PROOFS. The element steps of one engine step, one after the other (42_block_engine.md R202), and the description of a dynamic block
(41_huffman_tables.md R174 to R184). -/

namespace Sys2Proof.Machine

variable {s t : State} {c : Ctx} {n : Nat} {hlit hdist : BitVec 5} {hclen : BitVec 4} {tab : Table} {lens new : List (BitVec 4)}

/-! One element step at a time. -/

/-- The rest of an engine step after an element step: nothing where it is complete, else at most `n` more element steps. -/
def State.resume (n : Nat) (o : Host.Outcome State Fault Refusal) : Host.Outcome State Fault Refusal :=
  match o with
  | .next t => if t.mid = .settled then .next t else t.engineStep n
  | .fault r => .fault r
  | .refused r => .refused r

theorem State.engineStep_succ (s : State) (n : Nat) : s.engineStep (n + 1) = State.resume n s.engine := by
  rw [State.engineStep]
  cases s.engine <;> rfl

theorem State.resume_settled (h : t.mid = .settled) : State.resume n (.next t) = .next t :=
  if_pos h

theorem State.resume_midway (h : t.mid ≠ .settled) : State.resume n (.next t) = t.engineStep n :=
  if_neg h

theorem State.resume_orRaise {α : Type} (x : Except ErrCode α) (k : α → Host.Outcome State Fault Refusal) :
    State.resume n (s.orRaise x k) = s.orRaise x fun a => State.resume n (k a) := by
  cases x with
  | ok a => rfl
  | error e => exact State.resume_settled rfl

theorem State.Awaits.engineStep (h : s.Awaits c) (hend : s.inEnded = true) (hsink : s.sinkReady = true) (n : Nat) :
    s.engineStep (n + 1) = s.orRaise (elementOf (decode s.source c s.cur)) fun p =>
      State.resume n (exec p.1 { s with cur := p.2 }) := by
  rw [State.engineStep_succ, h.engine hend hsink, State.resume_orRaise]

/-! Inside an engine step begun in `s`. -/

/-- The state inside an engine step begun in `s`: the cursor has moved, BFINAL is read, and `m` says what is due next (R44). -/
def State.inside (s : State) (cur : Cursor) (fin : Bool) (m : Mid) : State :=
  { s with cur := cur, finalSeen := fin, mid := m }

/-- An abort forgets what the elements before it wrote in the same engine step (R326). -/
theorem State.inside_orRaise {α : Type} (s : State) (cur : Cursor) (fin : Bool) (m : Mid) (x : Except ErrCode α)
    (k : α → Host.Outcome State Fault Refusal) : (s.inside cur fin m).orRaise x k = s.orRaise x k := by
  cases x <;> rfl

theorem resume_inside {fin : Bool} {m : Mid} (h : m ≠ .settled) :
    State.resume n (.next (s.inside cur fin m)) = (s.inside cur fin m).engineStep n :=
  if_neg h

section
variable (hb : s.phase = .body) (hend : s.inEnded = true) (hsink : s.sinkReady = true) {fin : Bool} {m : Mid}

include hend hsink in
theorem engineStep_inside (h : (s.inside cur fin m).Awaits c) (n : Nat) :
    (s.inside cur fin m).engineStep (n + 1) = s.orRaise (elementOf (decode s.source c cur)) fun p =>
      State.resume n (exec p.1 (s.inside p.2 fin m)) :=
  (State.Awaits.engineStep h hend hsink n).trans (s.inside_orRaise cur fin m _ _)

include hb

theorem inside_storedHdr : (s.inside cur fin .storedHdr).Awaits .storedHdr :=
  ⟨by simp [State.inside, State.point, hb, Ctx.format], rfl, trivial, fun h => nomatch h⟩

theorem inside_dynHdr : (s.inside cur fin .dynHdr).Awaits .dynHdr :=
  ⟨by simp [State.inside, State.point, hb, Ctx.format], rfl, trivial, fun h => nomatch h⟩

theorem inside_clLens : (s.inside cur fin (.clLens hlit hdist hclen)).Awaits (.clLens (ncl hclen)) :=
  ⟨State.point_clLens hb rfl, rfl, trivial, fun h => nomatch h⟩

theorem inside_clSyms (hok : Fits 19 tab ∧ PrefixCode tab) :
    (s.inside cur fin (.clSyms hlit hdist tab lens)).Awaits (.clSym tab lens.isEmpty) :=
  ⟨State.point_clSyms hb rfl, rfl, hok, fun h => nomatch h⟩

theorem inside_dist {length : BitVec 9} (hd : s.distTable = some tab) (hok : Fits 32 tab ∧ PrefixCode tab) :
    (s.inside cur fin (.dist length)).Awaits (.dSym tab) :=
  ⟨State.point_dist hb rfl, by simp [State.inside, State.ctx, hd, Ctx.format], hok, fun h => nomatch h⟩

end

/-! The code-length list (R177 to R184). -/

/-- One turn of the loop of R177 reads one element and appends what it produces. -/
theorem refLens_succ (hfits : Fits 19 tab) {total fuel : Nat} (hlt : lens.length < total) :
    refLens src tab total (fuel + 1) lens cur =
      elementOf (decode src (.clSym tab lens.isEmpty) cur) >>= fun p =>
        (appended p.1 lens).elim (.error .eDynRepeat) fun new => refLens src tab total fuel (lens ++ new) p.2 := by
  have hcopy : clExtra lens.isEmpty 16 = if lens.isEmpty then 0 else 2 := rfl
  rw [decode, elementOf_decodeCoded, refLens, if_neg hlt.not_ge]
  simp only [bind_assoc]
  cases hread : refDecode src tab cur with
  | error e => rfl
  | ok p =>
    obtain ⟨sym, c1⟩ := p
    have hsym : sym < 19 := refDecode_sym_lt hfits hread
    show (if sym < 16 then _ else _) = need (eatBits src (clExtra lens.isEmpty sym) c1) >>= _
    by_cases hlen : sym < 16
    · rw [if_pos hlen, clExtra_of_lt hlen, eatBits_zero, need_some, ok_bind, clInstr, if_pos hlen]
      rfl
    have hmod {w : Nat} {p : Nat × Cursor} (hx : eatBits src w c1 = some p) : p.1 % 2 ^ w = p.1 :=
      Nat.mod_eq_of_lt (eatBits_lt src w c1 hx)
    rw [if_neg hlen]
    obtain rfl | rfl | rfl : sym = 16 ∨ sym = 17 ∨ sym = 18 := by omega
    · rw [hcopy]
      cases hlast : lens.getLast? with
      | none =>
        obtain rfl := List.getLast?_eq_none_iff.1 hlast
        rfl
      | some l =>
        have hne : lens.isEmpty = false := by cases lens <;> simp_all
        cases hx : eatBits src 2 c1 with
        | none => simp [hne, hx]
        | some p => simp [hne, hx, clInstr, appended, hlast, show p.1 % 4 = p.1 from hmod hx]
    · have hextra : clExtra lens.isEmpty 17 = 3 := rfl
      cases hx : eatBits src 3 c1 with
      | none => simp [hextra, hx]
      | some p => simp [hextra, hx, clInstr, appended, show p.1 % 8 = p.1 from hmod hx]
    · have hextra : clExtra lens.isEmpty 18 = 7 := rfl
      cases hx : eatBits src 7 c1 with
      | none => simp [hextra, hx]
      | some p => simp [hextra, hx, clInstr, appended, show p.1 % 128 = p.1 from hmod hx]

theorem appended_ne_nil {i : Instr} (h : appended i lens = some new) : new ≠ [] := by
  cases i with
  | clLen len => cases h; simp
  | clCopy x =>
    obtain ⟨l, -, rfl⟩ := Option.map_eq_some_iff.1 h
    simp
  | clZero3 x | clZero11 x => cases h; simp
  | _ => cases h

/-- The checks at the end of the code-length list, in the order of the rules (R181 to R184). -/
theorem next_finishLens (s : State) (hlit hdist : BitVec 5) (lens : List (BitVec 4)) :
    .next (s.finishLens hlit hdist lens) =
      s.orRaise
        (if lens.length ≠ nlit hlit + ndist hdist then .error .eDynCounts
        else if ((lens.map BitVec.toNat).take (nlit hlit)).getD 256 0 = 0 then .error .eNoEob
        else build ((lens.map BitVec.toNat).take (nlit hlit)) false >>= fun ll =>
          build ((lens.map BitVec.toNat).drop (nlit hlit)) true >>= fun d => .ok (ll, d))
        fun p => .next (State.settle { s with llTable := some p.1, distTable := some p.2, bstate := .dynamic }) := by
  by_cases h1 : lens.length = nlit hlit + ndist hdist
  · have heob : ((lens.map BitVec.toNat).take (nlit hlit)).getD 256 0 = 0 ↔ _ := eob_length_eq_zero_iff h1
    rw [if_neg (not_not.2 h1)]
    by_cases h2 : ((lens.map BitVec.toNat).take (nlit hlit)).getD 256 0 = 0
    · rw [State.finishLens_noEob h1 (heob.1 h2), if_pos h2]
      rfl
    · rw [if_neg h2]
      cases hll : build ((lens.map BitVec.toNat).take (nlit hlit)) false with
      | error e => rw [State.finishLens_llError h1 (mt heob.2 h2) hll]; rfl
      | ok ll =>
        cases hd : build ((lens.map BitVec.toNat).drop (nlit hlit)) true with
        | error e => rw [State.finishLens_distError h1 (mt heob.2 h2) hll hd]; rfl
        | ok d => rw [State.finishLens_opens h1 (mt heob.2 h2) hll hd]; rfl
  · rw [State.finishLens_counts h1, if_pos h1]
    rfl

/-- What the rules read of the code-length list after `lens`, and what they do with all of it. -/
def State.restOfLens (s : State) (fin : Bool) (hlit hdist : BitVec 5) (tab : Table) (fuel : Nat) (lens : List (BitVec 4))
    (cur : Cursor) : Host.Outcome State Fault Refusal :=
  s.orRaise (refLens s.source tab (nlit hlit + ndist hdist) fuel lens cur) fun p =>
    .next (State.finishLens { s with cur := p.2, finalSeen := fin } hlit hdist p.1)

theorem State.finishLens_settled (s : State) (hlit hdist : BitVec 5) (lens : List (BitVec 4)) :
    (s.finishLens hlit hdist lens).mid = .settled := by
  obtain ⟨e, h, -⟩ | ⟨ll, d, -, -, -, h⟩ := s.finishLens_cases hlit hdist lens <;> rw [h] <;> rfl

section
variable (hb : s.phase = .body) (hend : s.inEnded = true) (hsink : s.sinkReady = true) {fin : Bool}
include hb hend hsink

/-- From within the code-length list the element steps read the rest of it and end it. -/
theorem engineStep_clSyms (hok : Fits 19 tab ∧ PrefixCode tab) {fuel : Nat} (hlt : lens.length < nlit hlit + ndist hdist)
    (hfuel : nlit hlit + ndist hdist < lens.length + fuel) (hn : nlit hlit + ndist hdist ≤ lens.length + n) :
    (s.inside cur fin (.clSyms hlit hdist tab lens)).engineStep n = s.restOfLens fin hlit hdist tab fuel lens cur := by
  induction fuel generalizing cur lens n with
  | zero => omega
  | succ fuel ih =>
    obtain ⟨n, rfl⟩ := Nat.exists_eq_succ_of_ne_zero (show n ≠ 0 by omega)
    rw [engineStep_inside hend hsink (inside_clSyms hb hok), State.restOfLens, refLens_succ hok.1 hlt,
      State.orRaise_bind]
    refine State.orRaise_congr fun ⟨i, c⟩ hi => ?_
    have hformat : i.format = .clSym := decode_format (elementOf_eq_ok.1 hi)
    dsimp only
    cases hnew : appended i lens with
    | none =>
      have hexec := (exec_clSym hformat).trans (State.codeLengths_next.2
        ⟨hlit, hdist, tab, lens, rfl, (inside_clSyms (cur := c) (fin := fin) hb hok).due, .inl ⟨hnew, rfl⟩⟩)
      rw [hexec]
      exact State.resume_settled rfl
    | some new =>
      have hpos : 0 < new.length := List.length_pos_iff.2 (appended_ne_nil hnew)
      have hlength := List.length_append (as := lens) (bs := new)
      by_cases hfull : nlit hlit + ndist hdist ≤ (lens ++ new).length
      · obtain ⟨fuel, rfl⟩ := Nat.exists_eq_succ_of_ne_zero (show fuel ≠ 0 by omega)
        rw [exec_fills (s := s.inside c fin _) hb rfl hnew hfull, Option.elim_some, refLens, if_pos hfull]
        exact State.resume_settled (State.finishLens_settled _ _ _ _)
      · rw [exec_extends (s := s.inside c fin _) hb rfl hnew (by omega)]
        exact (resume_inside (by simp)).trans (ih (by omega) (by omega) (by omega))

/-- From CLLENS on the element steps build the code-length table and read the list with it (R175 to R184). -/
theorem engineStep_clLens :
    (s.inside cur fin (.clLens hlit hdist hclen)).engineStep (n + 321) =
      s.orRaise (need (eatFields s.source 3 (ncl hclen) cur)) fun p =>
        s.orRaise (build (clLengths (p.1.map (BitVec.ofNat 3))) false) fun tab =>
          s.restOfLens fin hlit hdist tab (nlit hlit + ndist hdist + 1) [] p.2 := by
  rw [engineStep_inside hend hsink (inside_clLens hb), elementOf_clLens, State.orRaise_bind]
  refine State.orRaise_congr fun ⟨fields, c⟩ hread => ?_
  have hlen : (fields.map (BitVec.ofNat 3)).length = ncl hclen := by
    rw [List.length_map, eatFields_length (need_eq_ok.1 hread)]
  have hexec {t : State} (ht) : exec (.clLens (fields.map (BitVec.ofNat 3))) (s.inside c fin (.clLens hlit hdist hclen)) = .next t :=
    execClLens_next.2 ⟨_, _, _, rfl, hlen, (inside_clLens hb).due, ht⟩
  show State.resume _ (exec (.clLens (fields.map (BitVec.ofNat 3))) (s.inside c fin (.clLens hlit hdist hclen))) = _
  dsimp only
  cases hbuild : build (clLengths (fields.map (BitVec.ofNat 3))) false with
  | error e =>
    rw [hexec (.inl ⟨e, hbuild, rfl⟩)]
    exact State.resume_settled rfl
  | ok tab =>
    have hbuilt : Built 19 false tab := ⟨_, by simp [clLengths], clLengths_le _, hbuild⟩
    have hlit5 := hlit.isLt
    have hdist5 := hdist.isLt
    rw [hexec (.inr ⟨tab, hbuild, rfl⟩)]
    exact (resume_inside (by simp)).trans (engineStep_clSyms hb hend hsink (buildGivesPrefixCodes _ _ _ hbuilt)
      (by simp [nlit]) (by simp) (by simp only [nlit, ndist, List.length_nil]; omega))

omit hb hend hsink in
theorem nlit_ofNat {v : Nat} (h : v < 2 ^ 5) : nlit (BitVec.ofNat 5 v) = v + 257 := by
  rw [nlit, BitVec.toNat_ofNat, Nat.mod_eq_of_lt h]

omit hb hend hsink in
theorem ndist_ofNat {v : Nat} (h : v < 2 ^ 5) : ndist (BitVec.ofNat 5 v) = v + 1 := by
  rw [ndist, BitVec.toNat_ofNat, Nat.mod_eq_of_lt h]

omit hb hend hsink in
theorem ncl_ofNat {v : Nat} (h : v < 2 ^ 4) : ncl (BitVec.ofNat 4 v) = v + 4 := by
  rw [ncl, BitVec.toNat_ofNat, Nat.mod_eq_of_lt h]

/-- From DYNHDR on the element steps read the two tables as the rules do (R174 to R184). -/
theorem engineStep_dynHdr :
    (s.inside cur fin .dynHdr).engineStep (n + 322) = s.orRaise (refTables s.source cur) fun p =>
      .next (State.settle { s with
        cur := p.2.2, finalSeen := fin, llTable := some p.1, distTable := some p.2.1, bstate := .dynamic }) := by
  rw [engineStep_inside hend hsink (inside_dynHdr hb), elementOf_dynHdr, refTables]
  simp only [State.orRaise_bind]
  refine State.orRaise_congr fun ⟨hlit, c1⟩ hr1 => State.orRaise_congr fun ⟨hdist, c2⟩ hr2 =>
    State.orRaise_congr fun ⟨hclen, c3⟩ hr3 => ?_
  have hnlit : nlit (BitVec.ofNat 5 hlit) = hlit + 257 := nlit_ofNat (eatBits_lt _ _ _ (need_eq_ok.1 hr1))
  have hndist : ndist (BitVec.ofNat 5 hdist) = hdist + 1 := ndist_ofNat (eatBits_lt _ _ _ (need_eq_ok.1 hr2))
  have hncl : ncl (BitVec.ofNat 4 hclen) = hclen + 4 := ncl_ofNat (eatBits_lt _ _ _ (need_eq_ok.1 hr3))
  have hexec : exec (.dynHdr (BitVec.ofNat 5 hlit) (BitVec.ofNat 5 hdist) (BitVec.ofNat 4 hclen)) (s.inside c3 fin .dynHdr) =
      .next (s.inside c3 fin (.clLens (BitVec.ofNat 5 hlit) (BitVec.ofNat 5 hdist) (BitVec.ofNat 4 hclen))) :=
    State.whenDue_due (inside_dynHdr hb).due
  dsimp only
  rw [State.orRaise, hexec, resume_inside (by simp), engineStep_clLens hb hend hsink, hncl]
  refine State.orRaise_congr fun ⟨fields, c4⟩ _ => State.orRaise_congr fun tab _ => ?_
  rw [State.restOfLens, hnlit, hndist]
  refine State.orRaise_congr fun ⟨lens, c5⟩ _ => ?_
  rw [next_finishLens, hnlit, hndist]
  dsimp only
  split
  · rfl
  split
  · rfl
  · simp only [State.orRaise_bind]
    rfl

end

end Sys2Proof.Machine
end

section
/-! PROOFS. The element steps of block headers, stored bytes and symbols compose to what the rules write (42_block_engine.md R205 to
R239). -/

namespace Sys2Proof.Machine

variable {s : State} {c : Cursor} {n : Nat} {fin : Bool} {ll d : Table}

/-! Block headers (R205 to R209). -/

/-- The end of an engine step of the rules: the new state is settled, or the run aborted (R326, R361). -/
def State.close (s : State) (x : Except ErrCode State) : Host.Outcome State Fault Refusal :=
  s.orRaise x fun t => .next t.settle

/-- NLEN is the complement of LEN (R206). -/
theorem ofNat_eq_complement {len nlen : Nat} (hlen : len < 2 ^ 16) (hnlen : nlen < 2 ^ 16) :
    BitVec.ofNat 16 nlen = ~~~BitVec.ofNat 16 len ↔ nlen = 65535 - len := by
  rw [← BitVec.toNat_inj, BitVec.toNat_not, BitVec.toNat_ofNat, BitVec.toNat_ofNat, Nat.mod_eq_of_lt hlen,
    Nat.mod_eq_of_lt hnlen]

theorem ofNat_eq_zero {len : Nat} (hlen : len < 2 ^ 16) : BitVec.ofNat 16 len = 0#16 ↔ len = 0 := by
  rw [← BitVec.toNat_inj, BitVec.toNat_ofNat, Nat.mod_eq_of_lt hlen, BitVec.toNat_ofNat, Nat.zero_mod]

section
variable (hb : s.phase = .body) (hend : s.inEnded = true) (hsink : s.sinkReady = true)
include hb hend hsink

/-- STORED_HDR is read and checked as the rules do (R206). -/
theorem engineStep_storedHdr :
    (s.inside c fin .storedHdr).engineStep (n + 1) =
      s.orRaise (need (eatBits s.source 16 c)) fun p => s.orRaise (need (eatBits s.source 16 p.2)) fun q =>
        s.close (if q.1 ≠ 65535 - p.1 then .error .eStoredLen
          else .ok { s with
            cur := q.2, finalSeen := fin, rawRemaining := BitVec.ofNat 16 p.1,
            bstate := if p.1 = 0 then .between else .stored }) := by
  have hawaits (c : Cursor) : (s.inside c fin .storedHdr).Awaits .storedHdr := inside_storedHdr hb
  rw [engineStep_inside hend hsink (hawaits c), elementOf_storedHdr]
  simp only [State.orRaise_bind]
  refine State.orRaise_congr fun ⟨len, c1⟩ h1 => State.orRaise_congr fun ⟨nlen, c2⟩ h2 => ?_
  have hlen : len < 2 ^ 16 := eatBits_lt _ _ _ (need_eq_ok.1 h1)
  have hnlen : nlen < 2 ^ 16 := eatBits_lt _ _ _ (need_eq_ok.1 h2)
  dsimp only
  rw [State.orRaise, exec_storedHdr (hawaits c2).due]
  simp only [ofNat_eq_complement hlen hnlen, ofNat_eq_zero hlen, ite_not, ne_eq]
  split <;> exact State.resume_settled rfl

/-- A block header is read and its block opened as the rules do (R205 to R209). -/
theorem engineStep_header (h : s.Awaits .blkHdr) : s.engineStep 400 = s.close (refHeader s) := by
  rw [h.engineStep hend hsink, elementOf_blkHdr, State.close, refHeader]
  simp only [State.orRaise_bind]
  refine State.orRaise_congr fun ⟨bfinal, c1⟩ _ => State.orRaise_congr fun ⟨btype, c2⟩ h2 => ?_
  have hbtype : btype < 2 ^ 2 := eatBits_lt _ _ _ (need_eq_ok.1 h2)
  have hdue : State.point { s with cur := c2 } = .element .blkHdr := h.due
  dsimp only
  obtain rfl | rfl | rfl | rfl : btype = 0 ∨ btype = 1 ∨ btype = 2 ∨ btype = 3 := by omega
  · have hexec : exec (.blkStored (bfinal == 1)) { s with cur := c2 } = .next (s.inside c2.align (bfinal == 1) .storedHdr) :=
      exec_blkStored hdue _
    show State.resume 399 (exec (.blkStored (bfinal == 1)) { s with cur := c2 }) = _
    rw [hexec, resume_inside (by simp), engineStep_storedHdr hb hend hsink, if_pos rfl]
    simp only [State.orRaise_bind]
    refine State.orRaise_congr fun ⟨len, c3⟩ _ => State.orRaise_congr fun ⟨nlen, c4⟩ _ => ?_
    dsimp only
    split <;> rfl
  · show State.resume 399 (exec (.blkFixed (bfinal == 1)) { s with cur := c2 }) = _
    rw [exec_blkFixed hdue]
    exact State.resume_settled rfl
  · have hexec : exec (.blkDynamic (bfinal == 1)) { s with cur := c2 } = .next (s.inside c2 (bfinal == 1) .dynHdr) :=
      exec_blkDynamic hdue _
    show State.resume 399 (exec (.blkDynamic (bfinal == 1)) { s with cur := c2 }) = _
    rw [hexec, resume_inside (by simp), engineStep_dynHdr hb hend hsink]
    rw [if_neg (by decide), if_neg (by decide), if_pos rfl, State.orRaise_bind]
    rfl
  · show State.resume 399 (exec (.blkReserved (bfinal == 1)) { s with cur := c2 }) = _
    rw [exec_blkReserved hdue]
    exact State.resume_settled rfl

/-! Stored bytes (R210). -/

omit hb in
theorem engineStep_rawByte (h : s.Awaits .rawByte) : s.engineStep 400 = s.close (refStoredByte s) := by
  have hbyte : s.source.byte s.cur = nextRaw s.inByte s.cur := rfl
  have hraw : eatRaw s.source 1 s.cur = _ := eatRaw_byte
  rw [h.engineStep hend hsink, elementOf_rawByte, State.close, refStoredByte, hraw, hbyte, nextRaw]
  cases s.inByte s.cur.inPos with
  | none => rfl
  | some b =>
    have hexec := exec_rawByte (s := { s with cur := { s.cur with inPos := s.cur.inPos + 1 } }) h.due b
    exact (congrArg (State.resume 399) hexec).trans (State.resume_settled rfl)

/-! Symbols (R211 to R239). -/

/-- After a length the distance is read and checked as the rules do (R223, R238, R239). -/
theorem engineStep_dist (hd : s.distTable = some d) (hok : Fits 32 d ∧ PrefixCode d) {length : Nat} (h3 : 3 ≤ length)
    (h258 : length ≤ 258) :
    (s.inside c fin (.dist (BitVec.ofNat 9 length))).engineStep (n + 1) =
      s.orRaise (refDecode s.source d c) fun p => s.close (
        if 29 < p.1 then .error .eBadSymbol
        else need (eatBits s.source (distExtra p.1) p.2) >>= fun q =>
          if s.totalOut < distanceBase p.1 + q.1 then .error .eBackref
          else .ok { s with
            cur := q.2, finalSeen := fin, copyLen := BitVec.ofNat 9 length,
            copyDist := BitVec.ofNat 16 (distanceBase p.1 + q.1) }) := by
  have hdue (c : Cursor) := inside_dist (cur := c) (fin := fin) (length := BitVec.ofNat 9 length) hb hd hok
  rw [engineStep_inside hend hsink (hdue c), decode, elementOf_decodeCoded, State.orRaise_bind]
  refine State.orRaise_congr fun ⟨sym, c1⟩ hread => ?_
  have hsym : sym < 32 := refDecode_sym_lt hok.1 hread
  dsimp only
  by_cases h29 : 29 < sym
  · have hextra : distExtra sym = 0 := by rw [distExtra, if_neg (by omega), if_neg (by omega)]
    have hexec (b0 : BitVec 1) := exec_distInvalid (hdue c1).due b0
    rw [if_pos h29, hextra, eatBits_zero, need_some, ok_bind]
    obtain rfl | rfl : sym = 30 ∨ sym = 31 := by omega
    · exact (congrArg (State.resume n) (hexec 0#1)).trans (State.resume_settled rfl)
    · exact (congrArg (State.resume n) (hexec 1#1)).trans (State.resume_settled rfl)
  · rw [if_neg h29, State.close, State.orRaise_bind, State.orRaise_bind]
    refine State.orRaise_congr fun ⟨x, c2⟩ hx => ?_
    have hx := eatBits_lt _ _ _ (need_eq_ok.1 hx)
    obtain ⟨i, hi⟩ := Option.isSome_iff_exists.1 (dInstr_isSome hsym x)
    obtain ⟨-, -, hmin, hmax⟩ := distance_formula (Nat.not_lt.1 h29) hx
    have hl : BitVec.ofNat 9 length ≠ 0#9 := by bv_omega
    have hexec := (exec_distance (dSymbol_of_dInstr hi hx) (Nat.not_lt.1 h29)).trans
      (State.distanceSymbol_dist (s := s.inside c2 fin (.dist (BitVec.ofNat 9 length))) hb rfl hl hmin hmax)
    dsimp only
    rw [hi, Option.elim_some, State.orRaise, hexec]
    have htotal : (s.inside c2 fin (.dist (BitVec.ofNat 9 length))).totalOut = s.totalOut := rfl
    rw [htotal]
    split <;> exact State.resume_settled rfl

/-- A symbol, and the distance that follows a length, are read and run as the rules do (R211 to R239). -/
theorem engineStep_symbol (h : s.Awaits (.llSym ll)) (hd : s.distTable = some d) (hok : Fits 32 d ∧ PrefixCode d) :
    s.engineStep 400 = s.close (refSymbol s ll d) := by
  rw [h.engineStep hend hsink, decode, elementOf_decodeCoded, State.close, refSymbol, State.orRaise_bind,
    State.orRaise_bind]
  refine State.orRaise_congr fun ⟨sym, c1⟩ hread => ?_
  have hsym : sym < 288 := refDecode_sym_lt h.ok.1 hread
  dsimp only
  by_cases hlit : sym < 256
  · have hextra : llExtra sym = 0 := if_pos (by omega)
    have hi : llInstr sym 0 = some (.lit (BitVec.ofNat 8 sym)) := if_pos hlit
    rw [if_pos hlit, hextra, eatBits_zero, need_some, ok_bind, hi]
    exact (congrArg (State.resume 399) (exec_lit (s := { s with cur := c1 }) h.due _)).trans (State.resume_settled rfl)
  rw [if_neg hlit]
  by_cases heob : sym = 256
  · subst heob
    exact (congrArg (State.resume 399) (exec_eob (s := { s with cur := c1 }) h.due)).trans (State.resume_settled rfl)
  rw [if_neg heob]
  by_cases hlen : sym ≤ 285
  · rw [if_pos hlen, refMatch, State.orRaise_bind, State.orRaise_bind]
    refine State.orRaise_congr fun ⟨x, c2⟩ hx => ?_
    have hx := eatBits_lt _ _ _ (need_eq_ok.1 hx)
    obtain ⟨i, hi⟩ := Option.isSome_iff_exists.1 (llInstr_isSome hsym x)
    obtain ⟨-, -, hmin, hmax⟩ := length_formula (by omega) hlen hx
    have hexec : exec i { s with cur := c2 } = .next (s.inside c2 s.finalSeen (.dist (BitVec.ofNat 9 (lengthBase sym + x)))) :=
      exec_length (llSymbol_of_llInstr hi hx) (by omega) hlen h.due
    dsimp only
    rw [hi, Option.elim_some, State.orRaise, hexec, resume_inside (by simp),
      engineStep_dist hb hend hsink hd hok hmin hmax, State.orRaise_bind]
    refine State.orRaise_congr fun ⟨dsym, c3⟩ _ => ?_
    dsimp only
    by_cases h29 : 29 < dsym
    · rw [if_pos h29, if_pos h29]
      rfl
    · rw [if_neg h29, if_neg h29, State.close, State.orRaise_bind, State.orRaise_bind]
      refine State.orRaise_congr fun ⟨y, c4⟩ hy => ?_
      obtain ⟨-, -, hpos, -⟩ := distance_formula (Nat.not_lt.1 h29) (eatBits_lt _ _ _ (need_eq_ok.1 hy))
      have hfails : lengthBase sym + x = 0 ∨ distanceBase dsym + y = 0 ∨ s.totalOut < distanceBase dsym + y ↔
          s.totalOut < distanceBase dsym + y := by omega
      simp only [hfails]
      split <;> rfl
  · have hinvalid : llExtra sym = 0 := by rw [llExtra, if_neg (by omega), if_neg (by omega)]
    rw [if_neg hlen, hinvalid, eatBits_zero, need_some, ok_bind]
    have hexec (b0 : BitVec 1) := exec_llInvalid (s := { s with cur := c1 }) h.due b0
    obtain rfl | rfl : sym = 286 ∨ sym = 287 := by omega
    · exact (congrArg (State.resume 399) (hexec 0#1)).trans (State.resume_settled rfl)
    · exact (congrArg (State.resume 399) (hexec 1#1)).trans (State.resume_settled rfl)

end

end Sys2Proof.Machine
end

section
/-! PROOFS. The element steps of one engine step compose to `EngineStep` as the rules write it (42_block_engine.md R202), settling
O55. -/

namespace Sys2Proof.Machine

variable {s : State} {ll d : Table}

theorem refEngineStep_end (h : s.bstate = .between) (hf : s.finalSeen = true) : refEngineStep s = .next s.finishBody := by
  simp only [refEngineStep, h, hf, if_true]

theorem refEngineStep_header (h : s.bstate = .between) (hf : s.finalSeen = false) :
    refEngineStep s = s.close (refHeader s) := by
  simp only [refEngineStep, h, hf, Bool.false_eq_true, if_false]
  cases refHeader s <;> rfl

theorem refEngineStep_stored (h : s.bstate = .stored) : refEngineStep s = s.close (refStoredByte s) := by
  simp only [refEngineStep, h]
  cases refStoredByte s <;> rfl

theorem refEngineStep_copy (h : s.huffman) (hl : s.copyLen ≠ 0#9) : refEngineStep s = s.copyStep := by
  obtain h | h := h <;> simp only [refEngineStep, h, if_pos hl]

theorem refEngineStep_symbol (h : s.huffman) (hl : s.copyLen = 0#9) (hll : s.llTable = some ll) (hd : s.distTable = some d) :
    refEngineStep s = s.close (refSymbol s ll d) := by
  obtain h | h := h
  all_goals
    simp only [refEngineStep, h, hl, ne_eq, not_true, if_false, hll, hd]
    cases refSymbol s ll d <;> rfl

/-- What is due between engine steps of the body (R202). -/
theorem State.point_body (hb : s.phase = .body) (hm : s.mid = .settled) : s.point = s.bodyPoint := by
  simp only [State.point, hb, hm]

theorem State.point_huffman (hb : s.phase = .body) (hm : s.mid = .settled) (h : s.huffman) :
    s.point = if s.copyLen = 0#9 then .element .llSym else .copy := by
  rw [State.point_body hb hm]
  obtain h | h := h <;> simp only [State.bodyPoint, h]

theorem State.Inv.awaits_blkHdr (h : s.Inv) (hp : s.point = .element .blkHdr) : s.Awaits .blkHdr := by
  obtain ⟨c, hc, hawaits⟩ := h.awaits hp
  cases c with
  | blkHdr => exact hawaits
  | _ => cases hc

theorem State.Inv.awaits_rawByte (h : s.Inv) (hp : s.point = .element .rawByte) : s.Awaits .rawByte := by
  obtain ⟨c, hc, hawaits⟩ := h.awaits hp
  cases c with
  | rawByte => exact hawaits
  | _ => cases hc

theorem State.Inv.awaits_llSym (h : s.Inv) (hp : s.point = .element .llSym) (hll : s.llTable = some ll) :
    s.Awaits (.llSym ll) := by
  obtain ⟨c, hc, hawaits⟩ := h.awaits hp
  cases c with
  | llSym t =>
    have hctx := hawaits.ctx
    obtain rfl : ll = t := by simpa [Ctx.format, State.ctx, hll] using hctx
    exact hawaits
  | _ => cases hc

theorem resume_copyStep (n : Nat) : State.resume n s.copyStep = s.copyStep := by
  unfold State.copyStep
  split
  · rfl
  · exact State.resume_settled rfl

theorem State.finishBody_settled (s : State) : s.finishBody.mid = .settled := by
  unfold State.finishBody
  split <;> rfl

/-- Settles O55, by the block state and what is due in it. -/
theorem engineStepsAreTheRulesEngineSteps : Obligations.EngineStepsAreTheRulesEngineSteps := by
  intro s hinv hb hm hend hsink
  have hbusy : s.phase.busy = true := by rw [hb]; rfl
  have hpoint := State.point_body hb hm
  have hhuffman (hh : s.huffman) : s.engineStep 400 = refEngineStep s := by
    have hp := State.point_huffman hb hm hh
    by_cases hl : s.copyLen = 0#9
    · rw [if_pos hl] at hp
      obtain ⟨ll, d, hll, hd, -, hbuilt⟩ := hinv.tables hbusy hh
      rw [refEngineStep_symbol hh hl hll hd]
      exact engineStep_symbol hb hend hsink (hinv.awaits_llSym hp hll) hd (buildGivesPrefixCodes _ _ _ hbuilt)
    · rw [if_neg hl] at hp
      have hcopy : s.engine = s.copyStep := by simp only [State.engine, hp, hsink, if_true]
      rw [refEngineStep_copy hh hl, State.engineStep_succ, hcopy, resume_copyStep]
  cases hbs : s.bstate with
  | between =>
    cases hf : s.finalSeen with
    | true =>
      have hp : s.point = .bodyEnd := by simp [hpoint, State.bodyPoint, hbs, hf]
      rw [refEngineStep_end hbs hf, State.engineStep_succ, State.engine_bodyEnd hp]
      exact State.resume_settled s.finishBody_settled
    | false =>
      have hp : s.point = .element .blkHdr := by simp [hpoint, State.bodyPoint, hbs, hf]
      rw [refEngineStep_header hbs hf]
      exact engineStep_header hb hend hsink (hinv.awaits_blkHdr hp)
  | stored =>
    have hp : s.point = .element .rawByte := by simp [hpoint, State.bodyPoint, hbs]
    rw [refEngineStep_stored hbs]
    exact engineStep_rawByte hend hsink (hinv.awaits_rawByte hp)
  | fixed => exact hhuffman (.inl hbs)
  | dynamic => exact hhuffman (.inr hbs)

end Sys2Proof.Machine
end

section
/-! PROOFS. `NextValue` (42_block_engine.md R203): what one engine step of the body can do, and that those without a result come to an end,
settling O56. -/

namespace Sys2Proof.Machine

variable {s t u : State} {n : Nat} {r : StepResult} {e : ErrCode} {f : Format}

/-! What one engine step shows. -/

/-- From `s` to `t` the run goes on and nothing is emitted: whatever a failure leaves determined is as it was (R326). -/
structure State.Quiet (s t : State) : Prop where
  phase   : t.phase = s.phase := by rfl
  result  : t.endPos = s.endPos ∧ t.out = s.out ∧ t.totalOut = s.totalOut ∧ t.adlerA = s.adlerA ∧ t.adlerB = s.adlerB := by
    exact ⟨rfl, rfl, rfl, rfl, rfl⟩
  host    : t.hostOps = s.hostOps ∧ t.input = s.input ∧ t.inLen = s.inLen ∧ t.inEnded = s.inEnded ∧
    t.sinkReady = s.sinkReady := by
    exact ⟨rfl, rfl, rfl, rfl, rfl⟩
  control : t.ctrlMode = s.ctrlMode ∧ t.startOff = s.startOff ∧ t.mode = s.mode := by
    exact ⟨rfl, rfl, rfl⟩

/-- From `s` to `t` the run goes on and one byte is emitted. -/
def State.EmitsByte (s t : State) : Prop :=
  ∃ b, t.phase = s.phase ∧ t.out = s.out ++ [b] ∧ t.totalOut = s.totalOut + 1

/-- A computation of the rules gives nothing but values with a property. -/
def AllOk {α : Type} (P : α → Prop) (x : Except ErrCode α) : Prop := ∀ a, x = .ok a → P a

theorem AllOk.ok {α : Type} {P : α → Prop} {a : α} (h : P a) : AllOk P (.ok a) := by
  rintro _ ⟨⟩
  exact h

theorem AllOk.error {α : Type} {P : α → Prop} : AllOk P (.error e) := by
  rintro _ ⟨⟩

theorem AllOk.bind {α β : Type} {P : β → Prop} {x : Except ErrCode α} {k : α → Except ErrCode β} (h : ∀ a, AllOk P (k a)) :
    AllOk P (x >>= k) := by
  cases x with
  | ok a => exact h a
  | error e => exact .error

theorem refHeader_quiet (s : State) : AllOk s.Quiet (refHeader s) := by
  unfold refHeader
  refine .bind fun ⟨bfinal, c1⟩ => .bind fun ⟨btype, c2⟩ => ?_
  dsimp only
  split
  · refine .bind fun ⟨len, c3⟩ => .bind fun ⟨nlen, c4⟩ => ?_
    dsimp only
    split
    · exact .error
    · exact .ok {}
  split
  · exact .ok {}
  split
  · exact .bind fun ⟨ll, d, c3⟩ => .ok {}
  · exact .error

theorem refStoredByte_emits (s : State) : AllOk s.EmitsByte (refStoredByte s) := by
  have hraw : eatRaw s.source 1 s.cur = _ := eatRaw_byte
  rw [refStoredByte, hraw]
  cases s.inByte s.cur.inPos with
  | none => exact .error
  | some b => exact .ok ⟨b, rfl, rfl, rfl⟩

theorem refMatch_quiet (s : State) (sym : Nat) (d : Table) (c : Cursor) : AllOk s.Quiet (refMatch s sym d c) := by
  unfold refMatch
  refine .bind fun ⟨x, c1⟩ => .bind fun ⟨dsym, c2⟩ => ?_
  dsimp only
  split
  · exact .error
  refine .bind fun ⟨y, c3⟩ => ?_
  dsimp only
  split
  · exact .error
  · exact .ok {}

theorem refSymbol_cases (s : State) (ll d : Table) : AllOk (fun t => s.EmitsByte t ∨ s.Quiet t) (refSymbol s ll d) := by
  unfold refSymbol
  refine .bind fun ⟨sym, c1⟩ => ?_
  dsimp only
  split
  · exact .ok (.inl ⟨_, rfl, rfl, rfl⟩)
  split
  · exact .ok (.inr {})
  split
  · exact fun t ht => .inr (refMatch_quiet s sym d c1 t ht)
  · exact .error

/-! From one engine step to the next. -/

/-- Between engine steps of the body, with nothing to wait for. -/
structure State.AtStep (s : State) : Prop extends s.Supplied where
  body    : s.phase = .body
  settled : s.mid = .settled

/-- From `s` the result `r` is reached with state `t`, all steps between having had none (R202, R203). -/
def State.Yields (s t : State) (r : StepResult) : Prop :=
  (∃ b, r = .byte b ∧ t.phase = .body ∧ t.out = s.out ++ [b] ∧ t.totalOut = s.totalOut + 1) ∨
  (r = .bodyEnd ∧ (t.phase = .done ∨ t.phase = .ztrailer) ∧ t.out = s.out ∧ t.totalOut = s.totalOut) ∨
  (∃ e, r = .raised e ∧ FailsWith s t e)

theorem State.Yields.stepResult (h : s.Yields t r) : stepResult s t = r := by
  unfold Machine.stepResult
  obtain ⟨b, rfl, hp, hout, htotal⟩ | ⟨rfl, hp, -, htotal⟩ | ⟨e, rfl, hfails⟩ := h
  · rw [if_neg (by simp [hp]), if_pos (by omega), hout, List.getLast?_concat]
  · rw [if_neg (by rintro hf; simp [hf] at hp), if_neg (by omega), if_neg (by rintro hf; simp [hf] at hp)]
  · obtain ⟨hp, herr⟩ := hfails.failed
    rw [if_pos hp, herr]

theorem State.Yields.ne_none (h : s.Yields t r) : r ≠ .none := by
  obtain ⟨b, rfl, -⟩ | ⟨rfl, -⟩ | ⟨e, rfl, -⟩ := h <;> simp

theorem State.Yields.emits_byte (hb : s.phase = .body) (h : s.EmitsByte t) : ∃ r, s.Yields t r := by
  obtain ⟨b, hp, hout, htotal⟩ := h
  exact ⟨_, .inl ⟨b, rfl, hp.trans hb, hout, htotal⟩⟩

theorem State.Yields.bodyEnd (s : State) : s.Yields s.finishBody .bodyEnd := by
  refine .inr (.inl ⟨rfl, ?_⟩)
  unfold finishBody
  split
  · exact ⟨.inl rfl, rfl, rfl⟩
  · exact ⟨.inr rfl, rfl, rfl⟩

theorem State.Yields.raise (s : State) (e : ErrCode) : s.Yields (s.raise e) (.raised e) :=
  .inr (.inr ⟨e, rfl, s.raise_failsWith e⟩)

theorem State.Quiet.stepResult (hb : s.phase = .body) (h : s.Quiet t) : stepResult s t = .none := by
  obtain ⟨-, -, htotal, -⟩ := h.result
  have hp : t.phase = .body := h.phase.trans hb
  rw [Machine.stepResult, if_neg (by simp [hp]), if_neg (by omega), if_pos hp]

/-- A quiet step before changes nothing of what is shown. -/
theorem State.Quiet.yields (h : s.Quiet t) (hy : t.Yields u r) : s.Yields u r := by
  obtain ⟨hend, hout, htotal, ha, hb⟩ := h.result
  obtain ⟨b, rfl, hp, hout', htotal'⟩ | ⟨rfl, hp, hout', htotal'⟩ | ⟨e, rfl, hf⟩ := hy
  · exact .inl ⟨b, rfl, hp, hout ▸ hout', htotal ▸ htotal'⟩
  · exact .inr (.inl ⟨rfl, hp, hout'.trans hout, htotal'.trans htotal⟩)
  · obtain ⟨hops, hinput, hlen, hended, hsink⟩ := h.host
    obtain ⟨hmode, hoff, hrun⟩ := h.control
    exact .inr (.inr ⟨e, rfl, hf.failed, hf.status, by simpa only [hend, hout, htotal, ha, hb] using hf.result,
      by simpa only [hops, hinput, hlen, hended, hsink] using hf.host, by simpa only [hmode, hoff, hrun] using hf.control,
      hf.place⟩)

/-! What holds along the element steps of an engine step. -/

theorem engineStep_succ_next : s.engineStep (n + 1) = .next u ↔
    ∃ t, s.engine = .next t ∧ (t.mid = .settled ∧ u = t ∨ t.mid ≠ .settled ∧ t.engineStep n = .next u) := by
  rw [State.engineStep_succ]
  cases s.engine with
  | next t =>
    by_cases hm : t.mid = .settled
    · simp [State.resume_settled hm, hm, eq_comm]
    · simp [State.resume_midway hm, hm]
  | _ => simp [State.resume]

theorem engineStep_keeps {P : State → Prop} (hP : ∀ a b, P a → a.engine = .next b → P b) (hs : P s)
    (h : s.engineStep n = .next t) : P t := by
  induction n generalizing s with
  | zero => cases h; exact hs
  | succ n ih =>
    obtain ⟨a, ha, ⟨-, rfl⟩ | ⟨-, hrest⟩⟩ := engineStep_succ_next.1 h
    · exact hP _ _ hs ha
    · exact ih (hP _ _ hs ha) hrest

theorem core_run_add {m : Nat} (h : core.run m s = .next t) : core.run (m + n) s = core.run n t := by
  induction m generalizing s with
  | zero => cases h; rw [Nat.zero_add]
  | succ m ih =>
    cases hs : step s with
    | next a =>
      rw [core_run_succ hs] at h
      rw [Nat.succ_add, core_run_succ hs, ih h]
    | fault f | refused f =>
      have hstep : core.step s = _ := hs
      simp [Host.Core.run, hstep] at h

/-- The steps of the machine reach the state after an engine step. -/
theorem engineStep_reached (hops : s.hostOps = []) (h : s.engineStep n = .next t) :
    t.hostOps = [] ∧ ∃ k, core.run k s = .next t := by
  refine engineStep_keeps (P := fun a => a.hostOps = [] ∧ ∃ k, core.run k s = .next a) ?_ ⟨hops, 0, rfl⟩ h
  rintro a b ⟨hops, k, hk⟩ hab
  obtain ⟨bytes, -, hemits⟩ := State.engine_emits hab
  exact ⟨hemits.hostOps.trans hops, k + 1, (core_run_add hk).trans (core_run_succ ((step_engine hops).trans hab))⟩

theorem State.point_midway (hb : s.phase = .body) (hm : s.mid ≠ .settled) : ∃ f, s.point = .element f := by
  unfold State.point
  rw [hb]
  cases hmid : s.mid with
  | settled => exact absurd hmid hm
  | _ => exact ⟨_, rfl⟩

/-- An engine step that begins with an element uses up input, unless the run fails. -/
theorem State.Supplied.engineStep_unread (hs : s.Supplied) (hp : s.point = .element f)
    (h : s.engineStep (n + 1) = .next u) : u.phase = .failed ∨ u.unreadBits < s.unreadBits := by
  induction n generalizing s f with
  | zero =>
    obtain ⟨t, ht, hcases⟩ := hs.engine_element hp
    obtain ⟨a, ha, ⟨-, rfl⟩ | ⟨-, hrest⟩⟩ := engineStep_succ_next.1 h
    · obtain rfl : t = u := by simpa [ht] using ha
      exact hcases.imp_right And.right
    · obtain rfl : t = a := by simpa [ht] using ha
      cases hrest
      exact hcases.imp_right And.right
  | succ n ih =>
    obtain ⟨t, ht, hcases⟩ := hs.engine_element hp
    obtain ⟨a, ha, ⟨-, rfl⟩ | ⟨hm, hrest⟩⟩ := engineStep_succ_next.1 h
    · obtain rfl : t = u := by simpa [ht] using ha
      exact hcases.imp_right And.right
    · obtain rfl : t = a := by simpa [ht] using ha
      have htsup := hs.engine ht
      have hb : t.phase = .body := by_contra fun hb => hm (htsup.inv.place hb)
      obtain ⟨g, hg⟩ := State.point_midway hb hm
      obtain hfail | ⟨-, hlt⟩ := hcases
      · simp [hb] at hfail
      · exact (ih htsup hg hrest).imp_right hlt.trans'

/-! What an engine step shows. -/

/-- The engine step from `s` has a result, or it is `NONE` and has used up input. -/
def State.StepShows (s : State) : Prop :=
  ∃ u, s.engineStep 400 = .next u ∧ ((∃ r, s.Yields u r) ∨ s.Quiet u ∧ u.AtStep ∧ u.unreadBits < s.unreadBits)

/-- An engine step that begins with an element and is, for the rules, a computation that emits a byte or is quiet. -/
theorem State.AtStep.stepShows_of_close (h : s.AtStep) (hp : s.point = .element f) {x : Except ErrCode State}
    (hstep : refEngineStep s = s.close x) (hx : AllOk (fun t => s.EmitsByte t ∨ s.Quiet t) x) : s.StepShows := by
  have hclose := (engineStepsAreTheRulesEngineSteps s h.inv h.body h.settled h.ended h.sink).trans hstep
  cases x with
  | error e => exact ⟨_, hclose, .inl ⟨_, .raise s e⟩⟩
  | ok t =>
    refine ⟨t.settle, hclose, ?_⟩
    obtain hemits | hquiet := hx t rfl
    · exact .inl (Yields.emits_byte (t := t.settle) h.body hemits)
    · have hb : t.settle.phase = .body := hquiet.phase.trans h.body
      have hsup : t.settle.Supplied := engineStep_keeps (fun _ _ ha hab => Supplied.engine ha hab) h.toSupplied hclose
      have hlt := (h.toSupplied.engineStep_unread hp hclose).resolve_left (by rw [hb]; simp)
      exact .inr ⟨⟨hquiet.phase, hquiet.result, hquiet.host, hquiet.control⟩, ⟨hsup, hb, rfl⟩, hlt⟩

/-- Every engine step shows a result or uses up input, by the block state. -/
theorem State.AtStep.stepShows (h : s.AtStep) : s.StepShows := by
  have hpoint := State.point_body h.body h.settled
  have hhuffman (hh : s.huffman) : s.StepShows := by
    have hp := State.point_huffman h.body h.settled hh
    by_cases hl : s.copyLen = 0#9
    · rw [if_pos hl] at hp
      obtain ⟨ll, d, hll, hd, -⟩ := h.inv.tables (by rw [h.body]; rfl) hh
      exact h.stepShows_of_close hp (refEngineStep_symbol hh hl hll hd) (refSymbol_cases s ll d)
    · rw [if_neg hl] at hp
      obtain ⟨b, hb⟩ := h.engine_copy hp
      refine ⟨_, engineStep_succ_next.2 ⟨_, hb, .inl ⟨rfl, rfl⟩⟩, .inl (Yields.emits_byte h.body ⟨b, rfl, rfl, rfl⟩)⟩
  cases hbs : s.bstate with
  | between =>
    cases hf : s.finalSeen with
    | true =>
      have hp : s.point = .bodyEnd := by simp [hpoint, State.bodyPoint, hbs, hf]
      exact ⟨_, engineStep_succ_next.2 ⟨_, engine_bodyEnd hp, .inl ⟨s.finishBody_settled, rfl⟩⟩, .inl ⟨_, .bodyEnd s⟩⟩
    | false =>
      have hp : s.point = .element .blkHdr := by simp [hpoint, State.bodyPoint, hbs, hf]
      exact h.stepShows_of_close hp (refEngineStep_header hbs hf) fun t ht => .inr (refHeader_quiet s t ht)
  | stored =>
    have hp : s.point = .element .rawByte := by simp [hpoint, State.bodyPoint, hbs]
    exact h.stepShows_of_close hp (refEngineStep_stored hbs) fun t ht => .inl (refStoredByte_emits s t ht)
  | fixed => exact hhuffman (.inl hbs)
  | dynamic => exact hhuffman (.inr hbs)

/-! Repeating the engine step (R203). -/

theorem repeatSteps_succ_result (h : s.engineStep 400 = .next u) (hr : stepResult s u ≠ .none) :
    s.repeatSteps (n + 1) = .next (stepResult s u, u) := by
  simp only [State.repeatSteps, h, if_neg hr]

theorem repeatSteps_succ_none (h : s.engineStep 400 = .next u) (hr : stepResult s u = .none) :
    s.repeatSteps (n + 1) = u.repeatSteps n := by
  simp only [State.repeatSteps, h, if_pos hr]

/-- More repetitions than there are unread bits change nothing. -/
theorem State.AtStep.repeatSteps_eq (h : s.AtStep) {m : Nat} (hn : s.unreadBits < n) (hm : s.unreadBits < m) :
    s.repeatSteps n = s.repeatSteps m := by
  induction n generalizing s m with
  | zero => omega
  | succ n ih =>
    obtain ⟨m, rfl⟩ := Nat.exists_eq_succ_of_ne_zero (show m ≠ 0 by omega)
    obtain ⟨u, hu, ⟨r, hr⟩ | ⟨hquiet, hat, hlt⟩⟩ := h.stepShows
    · have hne : Machine.stepResult s u ≠ .none := hr.stepResult ▸ hr.ne_none
      rw [repeatSteps_succ_result hu hne, repeatSteps_succ_result hu hne]
    · have hnone := hquiet.stepResult h.body
      rw [repeatSteps_succ_none hu hnone, repeatSteps_succ_none hu hnone]
      exact ih hat (by omega) (by omega)

theorem State.AtStep.nextValue_of_none (h : s.AtStep) (hu : s.engineStep 400 = .next u)
    (hnone : stepResult s u = .none) :
    s.nextValue = u.nextValue ∧ s.Quiet u ∧ u.AtStep ∧ u.unreadBits < s.unreadBits := by
  obtain ⟨v, hv, hcases⟩ := h.stepShows
  obtain rfl : u = v := by simpa [hu] using hv
  obtain ⟨r, hr⟩ | ⟨hquiet, hat, hlt⟩ := hcases
  · exact absurd (hr.stepResult.symm.trans hnone) hr.ne_none
  · exact ⟨(repeatSteps_succ_none hu hnone).trans (hat.repeatSteps_eq hlt (Nat.lt_succ_self _)), hquiet, hat, hlt⟩

/-- `NextValue` ends with a result, in a state that the machine reaches: by induction on the unread bits. -/
theorem State.AtStep.nextValue_yields (h : s.AtStep) :
    ∃ r t, s.nextValue = .next (r, t) ∧ s.Yields t r ∧ (s.hostOps = [] → ∃ n, core.run n s = .next t) := by
  induction hk : s.unreadBits using Nat.strong_induction_on generalizing s with
  | _ k ih =>
    obtain ⟨u, hu, ⟨r, hr⟩ | ⟨hquiet, hat, hlt⟩⟩ := h.stepShows
    · refine ⟨r, u, ?_, hr, fun hops => (engineStep_reached hops hu).2⟩
      rw [State.nextValue, repeatSteps_succ_result hu (hr.stepResult ▸ hr.ne_none), hr.stepResult]
    · obtain ⟨heq, -⟩ := h.nextValue_of_none hu (hquiet.stepResult h.body)
      obtain ⟨r, t, hnext, hyields, hreached⟩ := ih _ (hk ▸ hlt) hat rfl
      refine ⟨r, t, heq.trans hnext, hquiet.yields hyields, fun hops => ?_⟩
      obtain ⟨hops', m, hm⟩ := engineStep_reached hops hu
      obtain ⟨n, hn⟩ := hreached hops'
      exact ⟨m + n, (core_run_add hm).trans hn⟩

/-- Settles O56, by induction on the unread bits, which every engine step without a result makes fewer. -/
theorem nextValueRepeatsEngineSteps : Obligations.NextValueRepeatsEngineSteps := by
  intro s hinv hb hm hend hsink
  have h : s.AtStep := ⟨⟨hinv, hend, hsink⟩, hb, hm⟩
  refine ⟨fun u hu hr => repeatSteps_succ_result hu hr, fun u hu hnone => ?_, h.nextValue_yields⟩
  obtain ⟨heq, hquiet, -, hlt⟩ := h.nextValue_of_none hu hnone
  obtain ⟨-, hout, -⟩ := hquiet.result
  obtain ⟨-, -, hlen, -⟩ := hquiet.host
  simp only [State.unreadBits, hlen] at hlt
  exact ⟨heq, by omega, hout⟩

end Sys2Proof.Machine
end

section
/-! PROOFS. A copy (43_lz77_window.md R252 to R254): each step emits the byte of `OUT` that lies `copy_dist` back, settling O31 and O57. -/

namespace Sys2Proof.Machine

variable {s t : State} {n : Nat}

/-- The window index of R252, written without the subtraction of 16-bit words. -/
theorem State.copyAddr_eq (s : State) : s.copyAddr = (s.wpos.toNat + 65536 - s.copyDist.toNat) % 65536 := by
  rw [State.copyAddr, BitVec.toNat_sub]
  omega

/-- With the sink ready a copy step emits the byte at the window index of R252. -/
theorem State.engine_copyStep (hp : s.point = .copy) (hsink : s.sinkReady = true) {b : Byte}
    (hread : s.window.read s.copyAddr = some b) :
    s.engine = .next (State.settle { s.push b with copyLen := s.copyLen - 1#9 }) :=
  State.engine_next.2 (.inr (.inr (.inr (.inl ⟨hp, hsink, State.copyStep_next.2 ⟨b, hread, rfl⟩⟩))))

/-- Settles O31, by what PUSH writes. -/
theorem copyStepEmitsTheByteAtTheDistance : Obligations.CopyStepEmitsTheByteAtTheDistance := by
  intro s b hops hp hsink hread
  rw [step_engine hops, State.engine_copyStep hp hsink (s.copyAddr_eq ▸ hread), push_eq]
  rfl

/-- A copy in progress reads, in the window, the byte of `OUT` that lies `copy_dist` back: it is a byte of the run (R30 (d), R254). -/
theorem State.Inv.read_copyAddr (h : s.Inv) (hp : s.point = .copy) :
    ∃ b, s.window.read s.copyAddr = some b ∧ s.out[s.out.length - s.copyDist.toNat]? = some b := by
  obtain ⟨hbody, -, -, hlen⟩ := State.point_copy hp
  have hb : s.phase.busy = true := by rw [hbody]; rfl
  obtain ⟨-, -, hpos, hdist⟩ := h.copy hb hlen
  obtain ⟨hout, hwindow⟩ := h.history hb
  have hlt : s.copyDist.toNat - 1 < min s.totalOut Config.windowSize := by
    simp only [Config.maxDist, Config.windowSize] at hdist ⊢
    omega
  have hread := hwindow _ hlt
  rw [Nat.sub_add_cancel hpos, BitVec.ofNat_toNat, BitVec.setWidth_eq] at hread
  have hbyte := List.getElem?_eq_getElem (l := s.out) (i := s.out.length - s.copyDist.toNat) (by omega)
  exact ⟨_, hread.trans hbyte, hbyte⟩

/-- From place `n` on, every byte equals the one `d` places before it. -/
def RepeatsFrom (out : List Byte) (n d : Nat) : Prop :=
  ∀ k, n ≤ k → k < out.length → out[k]? = out[k - d]?

/-- From `s` to `t` a copy of `n` bytes has been made: nothing is left to copy, no input is read, and each new byte of `OUT` repeats the
one `copy_dist` before it (R252, R253). -/
structure State.Copied (s t : State) (n : Nat) : Prop where
  done    : t.copyLen = 0#9
  cur     : t.cur = s.cur
  length  : t.out.length = s.out.length + n
  keeps   : s.out <+: t.out
  repeats : RepeatsFrom t.out s.out.length s.copyDist.toNat

/-- A copy of no bytes. -/
theorem State.Copied.refl (h : s.copyLen = 0#9) : s.Copied s 0 where
  done := h
  cur := rfl
  length := rfl
  keeps := List.prefix_rfl
  repeats := fun _ hle hlt => absurd hlt hle.not_gt

theorem getElem?_of_prefix {out out' : List Byte} (h : out <+: out') {k : Nat} {b : Byte} (hk : out[k]? = some b) :
    out'[k]? = some b := by
  obtain ⟨hlt, rfl⟩ := List.getElem?_eq_some_iff.1 hk
  exact List.prefix_iff_getElem?.1 h k hlt

/-- One copy step, then the rest of the copy: the step's byte lies `copy_dist` back, and stays there. -/
theorem State.Copied.step {b : Byte} (hback : s.out[s.out.length - s.copyDist.toNat]? = some b)
    (h : (State.settle { s.push b with copyLen := s.copyLen - 1#9 }).Copied t n) : s.Copied t (n + 1) := by
  have hkeeps : s.out ++ [b] <+: t.out := h.keeps
  have hlength : t.out.length = (s.out ++ [b]).length + n := h.length
  have hrepeats : RepeatsFrom t.out (s.out ++ [b]).length s.copyDist.toNat := h.repeats
  rw [List.length_append, List.length_singleton] at hlength hrepeats
  have hold : s.out <+: t.out := (List.prefix_append _ _).trans hkeeps
  refine ⟨h.done, h.cur, by omega, hold, fun k hle hlt => ?_⟩
  obtain rfl | hgt := hle.eq_or_lt
  · rw [getElem?_of_prefix hkeeps (List.getElem?_concat_length ..), getElem?_of_prefix hold hback]
  · exact hrepeats k hgt hlt

/-- In a Huffman block, between engine steps, `copy_len` steps of the machine make the whole copy: by induction on `copy_len`. -/
theorem State.Inv.run_copy (h : s.Inv) (hops : s.hostOps = []) (hsink : s.sinkReady = true) (hb : s.phase = .body)
    (hm : s.mid = .settled) (hh : s.huffman) (hn : s.copyLen.toNat = n) : ∃ t, core.run n s = .next t ∧ s.Copied t n := by
  induction n generalizing s with
  | zero => exact ⟨s, rfl, .refl (BitVec.eq_of_toNat_eq hn)⟩
  | succ n ih =>
    have hlen : s.copyLen ≠ 0#9 := by
      rintro hzero
      simp [hzero] at hn
    have hp : s.point = .copy := (State.point_huffman hb hm hh).trans (if_neg hlen)
    obtain ⟨b, hread, hback⟩ := h.read_copyAddr hp
    have hengine := State.engine_copyStep hp hsink hread
    have hless : (s.copyLen - 1#9).toNat = n := by bv_omega
    obtain ⟨t, hrun, hcopied⟩ := ih (h.engine hengine) hops hsink hb rfl hh hless
    exact ⟨t, (core_run_succ ((step_engine hops).trans hengine)).trans hrun, hcopied.step hback⟩

/-- Settles O57, by what `copy_len` copy steps have made. -/
theorem aWholeCopyRepeatsTheDistance : Obligations.AWholeCopyRepeatsTheDistance := by
  intro s h hops hp hsink
  obtain ⟨hb, hm, hh, -⟩ := State.point_copy hp
  obtain ⟨t, hrun, hcopied⟩ := h.run_copy hops hsink hb hm hh rfl
  have hlength := hcopied.length
  exact ⟨t, hrun, hcopied.done, hcopied.cur, hlength, (List.prefix_iff_eq_take.1 hcopied.keeps).symm,
    fun k hk => hcopied.repeats _ (by omega) (by omega)⟩

end Sys2Proof.Machine
end

section
/-! PROOFS. A state that meets the invariant has no fault to meet, and only the host's operations are refused (20_memory.md R74; 10_state.md
R32; 43_lz77_window.md R254; 70_reset_and_hazards.md R360), settling O51. -/

namespace Sys2Proof.Machine

variable {s : State} {f : Format} {c : Ctx} {i : Instr} {cur : Cursor}

/-- The element that is read where the state awaits it completes: it has the format that is due, and a CLLENS has the fields that
DYNHDR announced. -/
theorem State.Awaits.exec_completes (h : s.Awaits c) (hdec : decode s.source c s.cur = .elem i cur) :
    ∃ t, exec i { s with cur := cur } = .next t := by
  have hformat : i.format = c.format := decode_format hdec
  refine Machine.exec_completes (hformat ▸ h.due) ?_
  rintro lens hlit hdist hclen rfl hm
  have hctx := h.ctx
  rw [← hformat] at hctx
  obtain rfl : c = .clLens (ncl hclen) := by simpa [Instr.format, State.ctx, show s.mid = _ from hm, eq_comm] using hctx
  exact decode_clLens hdec

/-- An element that emits a byte waits for the sink (R356). -/
theorem State.engine_waitSink {s1 : State} (hp : s.point = .element f) (hf : s.fetch f = .elem i s1) (he : emits i = true)
    (hsink : s.sinkReady = false) : s.engine = .next s := by
  simp [State.engine, hp, hf, he, hsink]

/-- Whatever the decoder answers where the state awaits an element, the step answers a next state. -/
theorem State.Awaits.engine_completes (h : s.Awaits c) : ∃ t, s.engine = .next t := by
  cases hdec : decode s.source c s.cur with
  | elem i cur =>
    have hfetch := State.fetch_elem.2 ⟨fun hr => hr.2 (h.aligned hr.1), c, cur, h.ctx, hdec, rfl⟩
    by_cases hwait : emits i = true ∧ s.sinkReady = false
    · exact ⟨s, State.engine_waitSink h.due hfetch hwait.1 hwait.2⟩
    · rw [State.engine_elem h.due hfetch fun he => by simpa [he] using hwait]
      exact h.exec_completes hdec
  | short =>
    have hfetch := State.fetch_short h.aligned h.ctx hdec
    cases hend : s.inEnded <;> rw [hend] at hfetch
    · exact ⟨s, State.engine_wait h.due hfetch⟩
    · exact ⟨_, State.engine_error h.due hfetch⟩
  | emptyTable =>
    have hfetch : s.fetch c.format = .error .eBadSymbol := by
      rw [State.fetch, if_neg fun hr => hr.2 (h.aligned hr.1)]
      simp only [h.ctx, hdec]
    exact ⟨_, State.engine_error h.due hfetch⟩
  | noSuchSymbol sym => exact absurd hdec (decode_known h.ok _ _)

/-- From a state that meets the invariant the engine goes on, or waits. -/
theorem State.Inv.engine_completes (h : s.Inv) : ∃ t, s.engine = .next t := by
  cases hp : s.point with
  | idle => exact ⟨s, State.engine_next.2 (.inl ⟨hp, rfl⟩)⟩
  | bodyEnd => exact ⟨_, State.engine_bodyEnd hp⟩
  | copy =>
    cases hsink : s.sinkReady with
    | false => exact ⟨s, State.engine_next.2 (.inr (.inr (.inl ⟨hp, hsink, rfl⟩)))⟩
    | true =>
      obtain ⟨b, hread, -⟩ := h.read_copyAddr hp
      exact ⟨_, State.engine_copyStep hp hsink hread⟩
  | element f =>
    obtain ⟨c, -, hc⟩ := h.awaits hp
    exact hc.engine_completes

/-- What a step may answer from a state that meets the invariant: a next state, or one of the refusals of the host's operations. -/
def HostStopsOnly (o : Host.Outcome State Fault Refusal) : Prop :=
  (∃ t, o = .next t) ∨ o = .refused .hostChangesRun ∨ o = .refused .noSuchCsr

/-- A host operation with a precondition is refused or done (R79, R82, R358). -/
theorem hostStopsOnly_guarded {p : Prop} [Decidable p] (u : State) :
    HostStopsOnly (if p then .refused .hostChangesRun else .next u) := by
  split
  · exact .inr (.inl rfl)
  · exact .inl ⟨u, rfl⟩

theorem State.writeCsr_hostStopsOnly (s : State) (n v : Nat) : HostStopsOnly (s.writeCsr n v) := by
  obtain rfl | rfl | ⟨h2, h7⟩ | h8 : n = 0 ∨ n = 1 ∨ (2 ≤ n ∧ n ≤ 7) ∨ 8 ≤ n := by omega
  · exact .inl ⟨_, s.writeCsr_ctrl v⟩
  · exact .inl ⟨_, s.writeCsr_startOff v⟩
  · exact .inl ⟨_, s.writeCsr_readOnly v h2 h7⟩
  · exact .inr (.inr (s.writeCsr_absent v h8))

theorem State.hostAct_hostStopsOnly (s : State) (op : HostOp) : HostStopsOnly (s.hostAct op) := by
  cases op with
  | writeCsr n v => exact s.writeCsr_hostStopsOnly n v
  | newInput | deliver | newSink => exact hostStopsOnly_guarded _
  | pass | reset | endInput | sink => exact .inl ⟨_, rfl⟩

theorem State.Inv.step_hostStopsOnly (h : s.Inv) : HostStopsOnly (step s) := by
  unfold step
  split
  · exact .inl h.engine_completes
  next ops _ => exact .inl (State.Inv.engine_completes (s := { s with hostOps := ops }) { h with })
  · exact State.hostAct_hostStopsOnly _ _

/-- Settles O51, by what the engine and each host operation can answer. -/
theorem theMachineNeverFaultsAndTheEngineNeverStops : Obligations.TheMachineNeverFaultsAndTheEngineNeverStops := by
  intro s h
  refine ⟨fun r hr => ?_, fun r hr => ?_, fun hops => ?_⟩
  · obtain ⟨t, ht⟩ | ht | ht := h.step_hostStopsOnly <;> cases hr.symm.trans ht
  · obtain ⟨t, ht⟩ | ht | ht := h.step_hostStopsOnly <;> cases hr.symm.trans ht
    · exact .inl rfl
    · exact .inr rfl
  · rw [step_engine hops]
    exact h.engine_completes

end Sys2Proof.Machine
end

section
/-! PROOFS. What an element writes (42_block_engine.md section 1; 10_state.md sections 3 and 5; 43_lz77_window.md R251, R257), settling O28
and O29. -/

namespace Sys2Proof.Machine

variable {s t u : State} {i : Instr} {f : Format}

/-! The emitting elements (R210, R212). -/

/-- An element that emits a byte leaves the window and `wpos` that PUSH leaves. -/
theorem exec_pushes {b : Byte} (hb : emitted i = some b) (h : exec i s = .next t) :
    t.window = (s.push b).window ∧ t.wpos = (s.push b).wpos := by
  cases i with
  | rawByte | lit =>
    cases hb
    obtain ⟨-, he⟩ := State.whenDue_next.1 h
    cases he
    exact ⟨rfl, rfl⟩
  | _ => cases hb

/-- Settles O28, by PUSH and the frame `State.Emits` of the element. -/
theorem emittingElementsStoreOneWindowByte : Obligations.EmittingElementsStoreOneWindowByte := by
  intro i s t b hw hb h
  obtain ⟨hwindow, hwpos⟩ := exec_pushes hb h
  have hemits : s.Emits t [b] := by simpa [hb] using exec_emits h
  refine ⟨?_, fun a ha => ?_, fun a => by rw [hemits.input], hemits.out, ?_, hemits.totalOut⟩
  · rw [hwindow, s.push_read hw, if_pos rfl]
  · rw [hwindow, s.push_read hw, if_neg ha]
  · rw [hwpos, State.push_wpos, BitVec.toNat_add]
    rfl

/-! The frame of every element. -/

/-- From `s` to `t` the element writes none but its own registers, and the run has not failed. Where `t` is written as an update of `s`,
`rfl` fills in every register that the update leaves out. -/
structure State.Keeps (s : State) (i : Instr) (t : State) : Prop where
  mode      : t.mode = s.mode := by rfl
  sums      : emits i = false → t.adlerA = s.adlerA ∧ t.adlerB = s.adlerB := by exact fun _ => ⟨rfl, rfl⟩
  cur       : (∀ bfinal, i ≠ .blkStored bfinal) → t.cur = s.cur := by exact fun _ => rfl
  window    : emits i = false → t.wpos = s.wpos ∧ t.window = s.window := by exact fun _ => ⟨rfl, rfl⟩
  finalSeen : i.format ≠ .blkHdr → t.finalSeen = s.finalSeen := by exact fun _ => rfl
  raw       : i.format ≠ .storedHdr → i.format ≠ .rawByte → t.rawRemaining = s.rawRemaining := by exact fun _ _ => rfl
  copy      : i.format ≠ .dSym → t.copyLen = s.copyLen ∧ t.copyDist = s.copyDist := by exact fun _ => ⟨rfl, rfl⟩
  tables    : i ≠ .eob → i.format ≠ .clSym → (∀ bfinal, i ≠ .blkFixed bfinal) →
    t.llTable = s.llTable ∧ t.distTable = s.distTable := by exact fun _ _ _ => ⟨rfl, rfl⟩
  bstate    : i ≠ .eob → i.format ≠ .clSym → (∀ bfinal, i ≠ .blkFixed bfinal) → i.format ≠ .storedHdr →
    i.format ≠ .rawByte → t.bstate = s.bstate := by exact fun _ _ _ _ _ => rfl
  zhdr      : i.format ≠ .zhdr → t.cmf = s.cmf ∧ t.flg = s.flg := by exact fun _ => ⟨rfl, rfl⟩
  endPos    : i.format ≠ .ztrailer → t.endPos = s.endPos := by exact fun _ => rfl
  status    : t.err = s.err ∧ t.fresh = s.fresh := by exact ⟨rfl, rfl⟩
  phase     : i.format ≠ .zhdr → i.format ≠ .ztrailer → t.phase = s.phase := by exact fun _ _ => rfl

/-- An element aborts the run, or writes none but its own registers. -/
def State.RaisesOrKeeps (s : State) (i : Instr) (t : State) : Prop := (∃ e, t = s.raise e) ∨ s.Keeps i t

/-- A meaning with one effect does what the effect does. -/
theorem State.RaisesOrKeeps.of_whenDue (h : s.whenDue f (.next u) = .next t) (hu : s.RaisesOrKeeps i u) :
    s.RaisesOrKeeps i t := by
  obtain ⟨-, rfl⟩ : s.point = .element f ∧ t = u := by simpa only [State.whenDue_next, next_eq_next] using h
  exact hu

/-- The end of the code-length list writes the tables and `bstate` (R183, R184). -/
theorem State.finishLens_raisesOrKeeps (hi : i.format = .clSym) (s : State) (hlit hdist : BitVec 5) (lens : List (BitVec 4)) :
    s.RaisesOrKeeps i (s.finishLens hlit hdist lens) := by
  obtain ⟨e, h, -⟩ | ⟨ll, d, -, -, -, h⟩ := s.finishLens_cases hlit hdist lens <;> rw [h]
  · exact .inl ⟨e, rfl⟩
  · exact .inr { tables := fun _ hne => absurd hi hne, bstate := fun _ hne => absurd hi hne }

theorem State.codeLengths_raisesOrKeeps (hi : i.format = .clSym) {produce : List (BitVec 4) → Option (List (BitVec 4))}
    (h : s.codeLengths produce = .next t) : s.RaisesOrKeeps i t := by
  obtain ⟨hlit, hdist, tab, lens, -, -, ⟨-, rfl⟩ | ⟨new, -, ⟨-, rfl⟩ | ⟨-, rfl⟩⟩⟩ := State.codeLengths_next.1 h
  · exact .inl ⟨_, rfl⟩
  · exact .inr {}
  · exact s.finishLens_raisesOrKeeps hi hlit hdist (lens ++ new)

/-- A distance symbol writes the two copy registers (R239). -/
theorem State.distanceSymbol_raisesOrKeeps (hi : i.format = .dSym) {distance : BitVec 16}
    (h : s.distanceSymbol distance = .next t) : s.RaisesOrKeeps i t := by
  obtain ⟨length, -, -, rfl⟩ := State.distanceSymbol_next.1 h
  obtain ⟨-, h⟩ | ⟨-, -, -, h⟩ := s.startCopy_cases length distance <;> rw [h]
  · exact .inl ⟨_, rfl⟩
  · exact .inr { copy := fun hne => absurd hi hne }

/-- The frame of `exec`: each case names the registers that are the element's own. -/
theorem exec_raisesOrKeeps (h : exec i s = .next t) : s.RaisesOrKeeps i t := by
  cases i with
  | blkStored bfinal =>
    exact .of_whenDue h (.inr { cur := fun hne => absurd rfl (hne bfinal), finalSeen := fun hne => absurd rfl hne })
  | blkFixed bfinal =>
    exact .of_whenDue h (.inr
      { finalSeen := fun hne => absurd rfl hne
        tables := fun _ _ hne => absurd rfl (hne bfinal)
        bstate := fun _ _ hne => absurd rfl (hne bfinal) })
  | blkDynamic => exact .of_whenDue h (.inr { finalSeen := fun hne => absurd rfl hne })
  | blkReserved | llInvalid | distInvalid => exact .of_whenDue h (.inl ⟨_, rfl⟩)
  | storedHdr =>
    refine .of_whenDue h ?_
    split
    · exact .inl ⟨_, rfl⟩
    · exact .inr { raw := fun hne => absurd rfl hne, bstate := fun _ _ _ hne => absurd rfl hne }
  | rawByte =>
    exact .of_whenDue h (.inr
      { sums := (fun hne => nomatch hne)
        window := (fun hne => nomatch hne)
        raw := fun _ hne => absurd rfl hne
        bstate := fun _ _ _ _ hne => absurd rfl hne })
  | dynHdr => exact .of_whenDue h (.inr {})
  | clLens =>
    obtain ⟨hlit, hdist, hclen, -, -, -, ⟨e, -, rfl⟩ | ⟨tab, -, rfl⟩⟩ := execClLens_next.1 h
    · exact .inl ⟨e, rfl⟩
    · exact .inr {}
  | clLen | clCopy | clZero3 | clZero11 => exact State.codeLengths_raisesOrKeeps rfl ((exec_clSym rfl).symm.trans h)
  | lit => exact .of_whenDue h (.inr { sums := (fun hne => nomatch hne), window := (fun hne => nomatch hne) })
  | eob => exact .of_whenDue h (.inr { tables := fun hne => absurd rfl hne, bstate := fun hne => absurd rfl hne })
  | len257 | len258 | len259 | len260 | len261 | len262 | len263 | len264 | len265 | len266 | len267 | len268 | len269
  | len270 | len271 | len272 | len273 | len274 | len275 | len276 | len277 | len278 | len279 | len280 | len281 | len282
  | len283 | len284 | len285 => exact .of_whenDue h (.inr {})
  | dist0 | dist1 | dist2 | dist3 | dist4 | dist5 | dist6 | dist7 | dist8 | dist9 | dist10 | dist11 | dist12 | dist13
  | dist14 | dist15 | dist16 | dist17 | dist18 | dist19 | dist20 | dist21 | dist22 | dist23 | dist24 | dist25 | dist26
  | dist27 | dist28 | dist29 => exact State.distanceSymbol_raisesOrKeeps rfl h
  | zhdr =>
    refine .of_whenDue h ?_
    split
    · exact .inl ⟨_, rfl⟩
    · exact .inr { zhdr := fun hne => absurd rfl hne, phase := fun hne => absurd rfl hne }
  | ztrailer =>
    refine .of_whenDue h ?_
    split
    · exact .inl ⟨_, rfl⟩
    · exact .inr { endPos := fun hne => absurd rfl hne, phase := fun _ hne => absurd rfl hne }

theorem emitted_eq_none (h : emits i = false) : emitted i = none := by
  cases i with
  | rawByte | lit => cases h
  | _ => rfl

/-- An element that emits nothing leaves `OUT` and `total_out` as they are. -/
theorem exec_silent (hi : emits i = false) (h : exec i s = .next t) : t.totalOut = s.totalOut ∧ t.out = s.out := by
  have hemits : s.Emits t [] := by simpa [emitted_eq_none hi] using exec_emits h
  exact ⟨hemits.totalOut, hemits.out.trans (List.append_nil _)⟩

/-- The mode of the run, and the sums where nothing is emitted, are kept by a `raise` too (R326). -/
theorem State.RaisesOrKeeps.mode_sums (h : s.RaisesOrKeeps i t) :
    t.mode = s.mode ∧ (emits i = false → t.adlerA = s.adlerA ∧ t.adlerB = s.adlerB) := by
  obtain ⟨e, rfl⟩ | hkeeps := h
  · exact ⟨rfl, fun _ => ⟨rfl, rfl⟩⟩
  · exact ⟨hkeeps.mode, hkeeps.sums⟩

theorem State.RaisesOrKeeps.keeps (h : s.RaisesOrKeeps i t) (hp : t.phase ≠ .failed) : s.Keeps i t := by
  obtain ⟨e, rfl⟩ | hkeeps := h
  · exact absurd rfl hp
  · exact hkeeps

/-- Settles O29, by the frames `State.Emits` and `State.Keeps` of each element. -/
theorem elementsChangeOnlyTheirRegisters : Obligations.ElementsChangeOnlyTheirRegisters := by
  intro i s t h
  have hemits := exec_emits h
  obtain ⟨hmode, hsums⟩ := (exec_raisesOrKeeps h).mode_sums
  refine ⟨⟨hemits.hostOps, hemits.input, hemits.inLen, hemits.inEnded, hemits.sinkReady, hemits.ctrlMode, hemits.startOff, hmode⟩,
    fun hi => ?_, fun hp => ?_⟩
  · obtain ⟨htotal, hout⟩ := exec_silent hi h
    obtain ⟨ha, hb⟩ := hsums hi
    exact ⟨htotal, ha, hb, hout⟩
  · have hkeeps := (exec_raisesOrKeeps h).keeps hp
    obtain ⟨herr, hfresh⟩ := hkeeps.status
    refine ⟨hkeeps.cur, fun hi => ?_, hkeeps.finalSeen, hkeeps.raw, hkeeps.copy, hkeeps.tables, hkeeps.bstate, hkeeps.zhdr,
      hkeeps.endPos, herr, hfresh, hkeeps.phase⟩
    obtain ⟨hwpos, hwindow⟩ := hkeeps.window hi
    exact ⟨hwpos, fun a => by rw [hwindow]⟩

end Sys2Proof.Machine
end

section
/-! PROOFS. START, and the block outside a run (44_decompress_toplevel.md R265, R266; 60_exceptions.md R328), settling O2 and O6. -/

namespace Sys2Proof.Machine

variable {s t : State}

/-- Settles O2, by what START loads where it is not ignored; the first phase is that of the mode. -/
theorem startLoadsEveryEngineRegister : Obligations.StartLoadsEveryEngineRegister := by
  intro s hidle
  rw [State.start_idle hidle]
  refine ⟨rfl, rfl, rfl, rfl, rfl, rfl, rfl, rfl, rfl, rfl, rfl, rfl, rfl, rfl, rfl, rfl, rfl, rfl, rfl, fun hzlib => ?_,
    fun hraw => ?_, rfl, rfl, rfl, rfl, rfl, rfl⟩
  · simp only [hzlib]
  · simp only [hraw]

theorem State.point_idle (h : s.phase.busy = false) : s.point = .idle := by
  unfold State.point
  cases hp : s.phase with
  | idle | done | failed => rfl
  | zhdr | body | ztrailer => simp [hp, Phase.busy] at h

/-- Outside a run the engine does nothing (R266). -/
theorem State.engine_idle (h : s.phase.busy = false) : s.engine = .next s :=
  State.engine_next.2 (.inl ⟨State.point_idle h, rfl⟩)

/-- Outside a run a step is what the host's oldest operation does: the engine has nothing to do in the step a `pass` gives it. -/
theorem step_hostAct {op : HostOp} {ops : List HostOp} (hidle : s.phase.busy = false) (hops : s.hostOps = op :: ops) :
    step s = State.hostAct { s with hostOps := ops } op := by
  cases op with
  | pass =>
    simp only [step, hops]
    exact State.engine_idle (s := { s with hostOps := ops }) hidle
  | _ => simp only [step, hops]

/-- Among the writes of a CSR only that of CTRL with bit 0 set, which is START, changes the phase (R34, R361). -/
theorem State.writeCsr_changes_phase {n v : Nat} (h : s.writeCsr n v = .next t) (hp : t.phase ≠ s.phase) :
    n = 0 ∧ v.testBit 0 = true := by
  obtain rfl | rfl | ⟨h2, h7⟩ | h8 : n = 0 ∨ n = 1 ∨ (2 ≤ n ∧ n ≤ 7) ∨ 8 ≤ n := by omega
  · refine ⟨rfl, ?_⟩
    by_contra hv
    rw [s.writeCsr_ctrl v, if_neg hv] at h
    cases h
    exact hp rfl
  · cases h
    exact absurd rfl hp
  · cases (s.writeCsr_readOnly v h2 h7).symm.trans h
    exact absurd rfl hp
  · cases (s.writeCsr_absent v h8).symm.trans h

/-- Among the operations of the host only a reset and START change the phase. -/
theorem State.hostAct_changes_phase {op : HostOp} (h : s.hostAct op = .next t) (hp : t.phase ≠ s.phase) :
    op = .reset ∨ ∃ v, v.testBit 0 = true ∧ op = .writeCsr 0 v := by
  cases op with
  | reset => exact .inl rfl
  | writeCsr n v =>
    obtain ⟨rfl, hv⟩ := State.writeCsr_changes_phase h hp
    exact .inr ⟨v, hv, rfl⟩
  | newInput | deliver | newSink =>
    obtain ⟨-, rfl⟩ := State.guarded_next.1 h
    exact absurd rfl hp
  | pass | endInput | sink =>
    cases h
    exact absurd rfl hp

/-- Settles O6: outside a run the engine does nothing, so the operation of the host that comes first is what changes the phase. -/
theorem failedIsLeftOnlyByStartOrReset : Obligations.FailedIsLeftOnlyByStartOrReset := by
  refine ⟨fun s hops hidle => (step_engine hops).trans (State.engine_idle hidle), fun s t hfailed hstep hleft => ?_⟩
  have hidle : s.phase.busy = false := by rw [hfailed]; rfl
  cases hops : s.hostOps with
  | nil =>
    rw [step_engine hops, State.engine_idle hidle] at hstep
    cases hstep
    exact absurd hfailed hleft
  | cons op ops =>
    rw [step_hostAct hidle hops] at hstep
    refine ⟨ops, ?_⟩
    obtain rfl | ⟨v, hv, rfl⟩ := State.hostAct_changes_phase hstep fun hsame => hleft (hsame.trans hfailed)
    · exact .inl rfl
    · exact .inr ⟨v, hv, rfl⟩

end Sys2Proof.Machine
end

section
/-! PROOFS. The zlib framer: the header and its three checks, the trailer (45_zlib_framer.md R280 to R287, R292), settling O25 to
O27. -/

namespace Sys2Proof.Machine

variable {s : State} {cmf flg : Byte}

/-- CM is the low half of CMF (R281). -/
theorem zlibMethod_iff : cmf.toNat % 16 = Config.zlibMethod ↔ cmf.extractLsb' 0 4 = 8#4 := by
  simp [← BitVec.toNat_inj, Config.zlibMethod]

/-- The three checks in order, with CM as a bit field and the modulus of R282 as a numeral. -/
theorem zhdrError_eq : zhdrError cmf flg =
    if cmf.extractLsb' 0 4 = 8#4 then
      if (cmf.toNat * 256 + flg.toNat) % 31 = 0 then
        if flg.getLsbD 5 = true then some .eZlibFdict else none
      else some .eZlibFcheck
    else some .eZlibMethod := by
  simp [zhdrError, zlibMethod_iff, Config.zlibHdrMod]

section
variable (h : s.point = .element .zhdr)
include h

/-- A failing check raises its code; the raise frees CSR ZHDR again (R326), so the stored CMF and FLG are not seen. -/
theorem exec_zhdr_error {e : ErrCode} (he : zhdrError cmf flg = some e) : exec (.zhdr cmf flg) s = .next (s.raise e) :=
  (State.whenDue_due h).trans (by rw [he]; rfl)

theorem exec_zhdr_accepted (hok : zhdrError cmf flg = none) :
    exec (.zhdr cmf flg) s = .next (State.settle { s with cmf := cmf, flg := flg, phase := .body }) :=
  (State.whenDue_due h).trans (by rw [hok])

theorem exec_zhdr_fails {e : ErrCode} (he : zhdrError cmf flg = some e) :
    ∃ t, exec (.zhdr cmf flg) s = .next t ∧ FailsWith s t e :=
  ⟨_, exec_zhdr_error h he, s.raise_failsWith e⟩

end

/-- The comparison of R287 as one of numbers. -/
theorem eq_adler_iff {expected : BitVec 32} :
    expected = s.adler ↔ expected.toNat = s.adlerB.toNat * 65536 + s.adlerA.toNat := by
  rw [← BitVec.toNat_inj, State.adler, append_toNat]
  rfl

theorem exec_ztrailer (h : s.point = .element .ztrailer) (expected : BitVec 32) :
    exec (.ztrailer expected) s = .next (if expected = s.adler
      then State.settle { s with endPos := s.cur.inPos, phase := .done }
      else s.raise .eZlibAdler) :=
  (State.whenDue_due h).trans (by rw [ite_not])

/-- Settles O25: no check fails. -/
theorem zlibHeaderIsAccepted : Obligations.ZlibHeaderIsAccepted := by
  intro s cmf flg h hmethod hmultiple hdict
  exact exec_zhdr_accepted h (by rw [zhdrError_eq, if_pos hmethod, if_pos hmultiple, if_neg (ne_true_of_eq_false hdict)])

/-- Settles O26, by the first check that fails. -/
theorem zlibHeaderErrorsComeInOrder : Obligations.ZlibHeaderErrorsComeInOrder := by
  refine fun s cmf flg h => ⟨fun hmethod => ?_, fun hmethod hmultiple => ?_, fun hmethod hmultiple hdict => ?_⟩ <;>
    refine exec_zhdr_fails h (zhdrError_eq.trans ?_)
  · rw [if_neg hmethod]
  · rw [if_pos hmethod, if_neg hmultiple]
  · rw [if_pos hmethod, if_pos hmultiple, if_pos hdict]

/-- Settles O27, by the two cases of the comparison. -/
theorem zlibTrailerIsCompared : Obligations.ZlibTrailerIsCompared := by
  intro s expected h
  rw [exec_ztrailer h]
  refine ⟨fun heq => ?_, fun hne => ?_⟩
  · rw [if_pos (eq_adler_iff.2 heq)]
    rfl
  · rw [if_neg (mt eq_adler_iff.1 hne)]
    exact ⟨_, rfl, s.raise_failsWith .eZlibAdler⟩

end Sys2Proof.Machine
end

section
/-! PROOFS. Hardware reset (70_reset_and_hazards.md R350), settling O1 and O49. -/

namespace Sys2Proof.Machine

variable {s : State}

/-- The eight CSRs right after reset (10_state.md section 8). -/
theorem State.reset_readCsr :
    (List.range 8).map State.reset.readCsr = [some 0, some 0, some 0x300, some 0, some 0, some 1, some 0, some 0] := by
  decide

/-- The host's side and the counter of free values are behind no CSR: after a hardware reset each reads as after reset. -/
theorem State.hardReset_readCsr (s : State) : s.hardReset.readCsr = State.reset.readCsr := rfl

theorem step_reset {ops : List HostOp} (h : s.hostOps = .reset :: ops) :
    step s = .next (State.hardReset { s with hostOps := ops }) := by
  simp only [step, h, State.hostAct]

/-- Settles O1, by the registers `hardReset` loads; they, and not the host's side, are what the CSRs read. -/
theorem hardResetLoadsTheResetValues : Obligations.HardResetLoadsTheResetValues := by
  intro s ops hops
  refine ⟨_, step_reset hops, rfl, rfl, rfl, rfl, rfl, rfl, rfl, rfl, rfl, rfl, rfl, rfl, rfl, rfl, rfl, rfl, rfl, rfl, rfl, rfl,
    rfl, rfl, rfl, ?_, ?_, rfl, rfl, rfl, rfl⟩
  · rw [State.hardReset_readCsr, State.reset_readCsr]
  · rw [State.hardReset_readCsr]

/-- Settles O49: the reset state is outside a run, with nothing delivered, an empty window and the sums at 1 and 0. -/
theorem resetMeetsTheInvariant : Obligations.ResetMeetsTheInvariant :=
  State.inv_of_not_busy rfl rfl ⟨Mem.wf_nil, by simp [State.reset]⟩ (by decide) (by decide) (fun _ => rfl) rfl rfl

end Sys2Proof.Machine
end

section
/-! PROOFS. Cursors that read alike (10_state.md R21; 40_bitstream_reader.md R140): `cur_byte` matters inside a byte only. And what the
engine does with each answer of the decoder. -/

namespace Sys2Proof.Machine

variable {s : State}

/-- The cursors are at the same bit, and agree on the buffered byte where one is buffered. -/
structure Cursor.Alike (c c' : Cursor) : Prop where
  inPos   : c.inPos = c'.inPos
  bitIdx  : c.bitIdx = c'.bitIdx
  curByte : c.bitIdx ≠ 0#3 → c.curByte = c'.curByte

/-- One raw byte is fetched, and `cur_byte` neither read nor written (R143). -/
theorem nextRaw_eq (fetch : Nat → Option Byte) (c : Cursor) :
    nextRaw fetch c = (fetch c.inPos).map fun b => (b, { c with inPos := c.inPos + 1 }) := by
  cases h : fetch c.inPos <;> simp [nextRaw, h]

namespace Cursor.Alike

variable {fetch : Nat → Option Byte} {c c' c1 : Cursor} {ctx : Ctx} {i : Instr}

theorem symm (h : c.Alike c') : c'.Alike c where
  inPos := h.inPos.symm
  bitIdx := h.bitIdx.symm
  curByte := fun hne => (h.curByte (h.bitIdx ▸ hne)).symm

theorem eq_withByte (h : c.Alike c') : { c with curByte := c'.curByte } = c' := by
  obtain ⟨p, k, b⟩ := c
  obtain ⟨rfl, rfl, -⟩ := h
  rfl

/-- A bit read at a byte boundary fetches its byte anew; inside a byte both cursors have it buffered. -/
theorem followedBy (fetch : Nat → Option Byte) : (cursorSource fetch).FollowedBy (cursorSource fetch) Alike := by
  rintro ⟨p, k, byte⟩ b c1 ⟨_, _, byte'⟩ hbit ⟨rfl, rfl, hbyte⟩
  by_cases hk : k = 0#3
  · subst hk
    exact ⟨c1, (nextBit_fetch fetch p byte').trans ((nextBit_fetch fetch p byte).symm.trans hbit), rfl, rfl, fun _ => rfl⟩
  · obtain rfl : byte = byte' := hbyte hk
    exact ⟨c1, hbit, rfl, rfl, fun _ => rfl⟩

/-- The same element is read at cursors that read alike. -/
theorem decode_elem (h : c.Alike c') (hd : decode (cursorSource fetch) ctx c = .elem i c1) :
    ∃ c1', decode (cursorSource fetch) ctx c' = .elem i c1' ∧ c1.Alike c1' := by
  by_cases hraw : ctx = .rawByte
  · subst hraw
    obtain ⟨b, hbyte, rfl⟩ := readRawByte_some.1 (Decoded.ofOption_elem.1 hd)
    obtain ⟨b', hf, he⟩ := Option.map_eq_some_iff.1 ((nextRaw_eq fetch c).symm.trans hbyte)
    cases he
    refine ⟨{ c' with inPos := c'.inPos + 1 }, Decoded.ofOption_elem.2 (readRawByte_some.2 ⟨b, (nextRaw_eq fetch c').trans ?_, rfl⟩),
      congrArg (· + 1) h.inPos, h.bitIdx, h.curByte⟩
    rw [← h.inPos, hf]
    rfl
  · exact (followedBy fetch).decode hraw hd h

end Cursor.Alike

theorem decodeCoded_emptyTable {σ : Type} {src : Source σ} {tab : Table} {extra : Nat → Nat}
    {instr : Nat → Nat → Option Instr} {a : σ} : decodeCoded src tab extra instr a = .emptyTable ↔ tab = [] := by
  cases tab with
  | nil => simp [decodeCoded]
  | cons entry tab =>
    rw [decodeCoded, if_neg (by simp)]
    repeat' split
    all_goals simp

theorem ofOption_ne_emptyTable {σ : Type} (o : Option (Instr × σ)) : Decoded.ofOption o ≠ .emptyTable := by
  cases o <;> simp [Decoded.ofOption]

/-- DECODE on the empty table fails wherever the source stands (R173). -/
theorem decode_emptyTable_anywhere {σ : Type} {src : Source σ} {ctx : Ctx} {a : σ} (h : decode src ctx a = .emptyTable) (b : σ) :
    decode src ctx b = .emptyTable := by
  cases ctx with
  | clSym | llSym | dSym => exact decodeCoded_emptyTable.2 (decodeCoded_emptyTable.1 h)
  | _ => exact absurd h (ofOption_ne_emptyTable _)

/-- The source runs out inside an element at both of two cursors that read alike. -/
theorem Cursor.Alike.decode_short {fetch : Nat → Option Byte} {c c' : Cursor} {ctx : Ctx} (h : c.Alike c') (hok : ctx.ok)
    (hd : decode (cursorSource fetch) ctx c = .short) : decode (cursorSource fetch) ctx c' = .short := by
  cases hd' : decode (cursorSource fetch) ctx c' with
  | short => rfl
  | elem i c1 =>
    obtain ⟨_, helem, -⟩ := h.symm.decode_elem hd'
    cases hd.symm.trans helem
  | emptyTable => cases hd.symm.trans (decode_emptyTable_anywhere hd' c)
  | noSuchSymbol sym => exact absurd hd' (decode_known hok _ _)

/-! What the engine does with each answer of the decoder, where the state awaits the element. -/

namespace State.Awaits

variable {c : Ctx}

theorem engine_of_elem (h : s.Awaits c) {i : Instr} {cur : Cursor} (hdec : decode s.source c s.cur = .elem i cur) :
    s.engine = if emits i && !s.sinkReady then .next s else exec i { s with cur := cur } := by
  have hfetch := State.fetch_elem.2 ⟨fun hr => hr.2 (h.aligned hr.1), c, cur, h.ctx, hdec, rfl⟩
  simp only [State.engine, h.due, hfetch]

theorem engine_of_short (h : s.Awaits c) (hdec : decode s.source c s.cur = .short) :
    s.engine = .next (if s.inEnded then s.raise .ePrematureEnd else s) := by
  have hfetch := State.fetch_short h.aligned h.ctx hdec
  cases hend : s.inEnded <;> rw [hend] at hfetch
  · exact State.engine_wait h.due hfetch
  · exact State.engine_error h.due hfetch

theorem engine_of_emptyTable (h : s.Awaits c) (hdec : decode s.source c s.cur = .emptyTable) :
    s.engine = .next (s.raise .eBadSymbol) := by
  refine State.engine_error h.due ?_
  rw [State.fetch, if_neg fun hr => hr.2 (h.aligned hr.1)]
  simp only [h.ctx, hdec]

end State.Awaits

end Sys2Proof.Machine
end

section
/-! PROOFS. What an earlier run may have left (70_reset_and_hazards.md R352, R353): two states alike differ in `Leftovers` only, and PUSH
keeps the leftovers hidden (43_lz77_window.md R251, R254). -/

namespace Sys2Proof.Machine

variable {s t : State}

/-- What two states of runs over the same input may differ in: `cur_byte`, the window, `OUT`, the counter of free values. -/
structure Leftovers where
  curByte : Byte
  window  : Mem
  out     : List Byte
  fresh   : Nat

/-- PUSH into a window and an `OUT` (R251). -/
def Leftovers.push (l : Leftovers) (p : Nat) (b : Byte) : Leftovers :=
  { l with window := l.window.write p b, out := l.out ++ [b] }

/-- The state with another run's leftovers in place of its own. -/
def State.withLeftovers (s : State) (l : Leftovers) : State :=
  { s with cur := { s.cur with curByte := l.curByte }, window := l.window, out := l.out, fresh := l.fresh }

/-- The leftovers show nothing that the run of `s` can see: they agree with `s` on a buffered byte, on the window cells the run has
written and on the bytes it has emitted. -/
structure State.Hides (s : State) (l : Leftovers) : Prop where
  total   : s.totalOut ≤ s.out.length ∧ s.totalOut ≤ l.out.length
  runOut  : s.runOut = (s.withLeftovers l).runOut
  curByte : s.cur.bitIdx ≠ 0#3 → s.cur.curByte = l.curByte
  window  : ∀ k < min s.totalOut Config.windowSize,
    s.window.read (s.wpos - BitVec.ofNat 16 (k + 1)).toNat = l.window.read (s.wpos - BitVec.ofNat 16 (k + 1)).toNat

/-- Two states alike of runs that have not failed differ in leftovers only. -/
theorem SameRun.leftovers (h : SameRun s t) (hf : s.phase ≠ .failed) : ∃ l, t = s.withLeftovers l ∧ s.Hides l := by
  obtain ⟨hs, ht, hrun⟩ := h.out
  obtain ⟨hpos, hbit, hbyte⟩ := h.cursor hf
  obtain ⟨-, -, htotal, -, -⟩ := h.result
  obtain ⟨-, -, -, -, -, hwpos, -, -⟩ := h.engine hf
  have hcur : { s.cur with curByte := t.cur.curByte } = t.cur := Cursor.Alike.eq_withByte ⟨hpos, hbit, hbyte⟩
  have heq : t = s.withLeftovers ⟨t.cur.curByte, t.window, t.out, t.fresh⟩ := by
    rw [State.withLeftovers, hcur]
    simp only [h.host, h.control, h.result, h.place, h.engine hf, h.status hf]
  refine ⟨_, heq, ⟨hs, ?_⟩, ?_, hbyte, fun k hk => ?_⟩
  · rwa [htotal]
  · rwa [← heq]
  · rw [h.window hf k hk, hwpos]

theorem State.Hides.cursor {l : Leftovers} (h : s.Hides l) : s.cur.Alike (s.withLeftovers l).cur :=
  ⟨rfl, rfl, h.curByte⟩

theorem State.Hides.sameRun {l : Leftovers} (h : s.Hides l) : SameRun s (s.withLeftovers l) where
  host := ⟨rfl, rfl, rfl, rfl, rfl⟩
  control := ⟨rfl, rfl, rfl, rfl⟩
  result := ⟨rfl, rfl, rfl, rfl, rfl⟩
  place := rfl
  out := ⟨h.total.1, h.total.2, h.runOut⟩
  cursor := fun _ => ⟨rfl, rfl, h.curByte⟩
  engine := fun _ => ⟨rfl, rfl, rfl, rfl, rfl, rfl, rfl, rfl⟩
  status := fun _ => ⟨rfl, rfl, rfl⟩
  window := fun _ => h.window

/-- A write leaves every other address alone, in a memory that is not canonical too. -/
theorem Mem.read_write_ne (m : Mem) {p q : Nat} (h : q ≠ p) (v : Byte) : (m.write p v).read q = m.read q := by
  induction m with
  | nil => simp [Mem.write, Mem.read, h.symm]
  | cons cell m ih =>
    obtain ⟨a, b⟩ := cell
    by_cases hlt : p < a
    · by_cases hq : q < p
      · simp [Mem.write, hlt, Mem.read, h.symm, hq, show a ≠ q by omega, show q < a by omega]
      · simp [Mem.write, hlt, Mem.read, h.symm, hq]
    · by_cases heq : p = a
      · subst heq
        simp [Mem.write, Mem.read, h.symm]
      · simp only [Mem.write, hlt, heq, if_false, Mem.read, ih]

theorem State.Hides.push {l : Leftovers} (h : s.Hides l) (b : Byte) : (s.push b).Hides (l.push s.wpos.toNat b) where
  total := ⟨by simpa using h.total.1, by simpa [Leftovers.push] using h.total.2⟩
  runOut := by
    have hpush : (s.withLeftovers l).push b = (s.push b).withLeftovers (l.push s.wpos.toNat b) := rfl
    rw [← hpush, State.push_runOut h.total.1, State.push_runOut (s := s.withLeftovers l) h.total.2, h.runOut]
  curByte := h.curByte
  window := by
    intro k hk
    simp only [Config.windowSize, State.push_totalOut, Nat.lt_min] at hk
    have haddr : (s.push b).wpos - BitVec.ofNat 16 (k + 1) = s.wpos - BitVec.ofNat 16 k := by
      rw [State.push_wpos]
      bv_omega
    rw [haddr, State.push_window, Leftovers.push]
    cases k with
    | zero => simp
    | succ k =>
      have hne : (s.wpos - BitVec.ofNat 16 (k + 1)).toNat ≠ s.wpos.toNat := by
        rw [BitVec.toNat_sub, BitVec.toNat_ofNat]
        omega
      rw [Mem.read_write_ne _ hne, Mem.read_write_ne _ hne]
      exact h.window k (by simp only [Config.windowSize, Nat.lt_min]; omega)

end Sys2Proof.Machine
end

section
/-! PROOFS. A step of the engine does the same to two states alike, and START makes states alike (70_reset_and_hazards.md R352, R353;
46_streaming_adapter.md R305), settling O53. -/

namespace Sys2Proof.Machine

variable {s t u : State}

/-! Outcomes that match. -/

/-- Where `o` answers a next state, `o'` answers one alike. -/
def Matched (o o' : Host.Outcome State Fault Refusal) : Prop := ∀ u, o = .next u → ∃ u', o' = .next u' ∧ SameRun u u'

theorem Matched.of_sameRun (h : SameRun s t) : Matched (.next s) (.next t) := by
  intro u hu
  obtain rfl := next_eq_next.1 hu
  exact ⟨t, rfl, h⟩

theorem SameRun.ite {p : Prop} [Decidable p] {s' t' : State} (hp : SameRun s t) (hn : SameRun s' t') :
    SameRun (if p then s else s') (if p then t else t') := by
  split
  · exact hp
  · exact hn

namespace State.Hides

variable {l : Leftovers}

/-- A `raise` leaves alike all that R326 determines. -/
theorem raise (h : s.Hides l) (e : ErrCode) : SameRun (s.raise e) ((s.withLeftovers l).raise e) where
  host := ⟨rfl, rfl, rfl, rfl, rfl⟩
  control := ⟨rfl, rfl, rfl, rfl⟩
  result := ⟨rfl, rfl, rfl, rfl, rfl⟩
  place := rfl
  out := ⟨h.total.1, h.total.2, h.runOut⟩
  cursor := fun hf => absurd rfl hf
  engine := fun hf => absurd rfl hf
  status := fun hf => absurd rfl hf
  window := fun hf => absurd rfl hf

theorem orRaise {α : Type} {k k' : α → Host.Outcome State Fault Refusal} (h : s.Hides l) (x : Except ErrCode α)
    (hk : ∀ a, Matched (k a) (k' a)) : Matched (s.orRaise x k) ((s.withLeftovers l).orRaise x k') := by
  cases x with
  | ok a => exact hk a
  | error e => exact .of_sameRun (h.raise e)

/-- What is due does not depend on the leftovers (R91). -/
theorem whenDue {o o' : Host.Outcome State Fault Refusal} {f : Format} (h : Matched o o') :
    Matched (s.whenDue f o) ((s.withLeftovers l).whenDue f o') := by
  intro t ht
  obtain ⟨hp, ho⟩ := State.whenDue_next.1 ht
  obtain ⟨t', ho', halike⟩ := h t ho
  exact ⟨t', State.whenDue_next.2 ⟨hp, ho'⟩, halike⟩

/-- A meaning with one effect, which leaves the two states to differ in leftovers only. -/
theorem update {f : Format} {l' : Leftovers} (h : u.Hides l') :
    Matched (s.whenDue f (.next u)) ((s.withLeftovers l).whenDue f (.next (u.withLeftovers l'))) :=
  whenDue (.of_sameRun h.sameRun)

/-! The elements. -/

theorem finishLens (h : s.Hides l) (hlit hdist : BitVec 5) (lens : List (BitVec 4)) :
    Matched (.next (s.finishLens hlit hdist lens)) (.next ((s.withLeftovers l).finishLens hlit hdist lens)) := by
  rw [next_finishLens, next_finishLens]
  exact h.orRaise _ fun p => .of_sameRun (sameRun (l := l) { h with })

theorem codeLengths (h : s.Hides l) (produce : List (BitVec 4) → Option (List (BitVec 4))) :
    Matched (s.codeLengths produce) ((s.withLeftovers l).codeLengths produce) := by
  intro t ht
  obtain ⟨hlit, hdist, tab, lens, hm, hp, hcases⟩ := State.codeLengths_next.1 ht
  obtain ⟨hnone, rfl⟩ | ⟨new, hnew, ⟨hlt, rfl⟩ | ⟨hle, rfl⟩⟩ := hcases
  · exact ⟨_, State.codeLengths_next.2 ⟨hlit, hdist, tab, lens, hm, hp, .inl ⟨hnone, rfl⟩⟩, h.raise .eDynRepeat⟩
  · exact ⟨_, State.codeLengths_next.2 ⟨hlit, hdist, tab, lens, hm, hp, .inr ⟨new, hnew, .inl ⟨hlt, rfl⟩⟩⟩,
      sameRun (l := l) { h with }⟩
  · obtain ⟨t', ht', halike⟩ := h.finishLens hlit hdist (lens ++ new) _ rfl
    exact ⟨t', State.codeLengths_next.2
      ⟨hlit, hdist, tab, lens, hm, hp, .inr ⟨new, hnew, .inr ⟨hle, next_eq_next.1 ht'⟩⟩⟩, halike⟩

theorem distanceSymbol (h : s.Hides l) (distance : BitVec 16) :
    Matched (s.distanceSymbol distance) ((s.withLeftovers l).distanceSymbol distance) := by
  intro t ht
  obtain ⟨length, hm, hp, rfl⟩ := State.distanceSymbol_next.1 ht
  exact ⟨_, State.distanceSymbol_next.2 ⟨length, hm, hp, rfl⟩, .ite (h.raise .eBackref) (sameRun (l := l) { h with })⟩

theorem clLens (h : s.Hides l) (lens : List (BitVec 3)) :
    Matched (execClLens lens s) (execClLens lens (s.withLeftovers l)) := by
  intro t ht
  obtain ⟨hlit, hdist, hclen, hm, hlen, hp, ⟨e, hb, rfl⟩ | ⟨tab, hb, rfl⟩⟩ := execClLens_next.1 ht
  · exact ⟨_, execClLens_next.2 ⟨hlit, hdist, hclen, hm, hlen, hp, .inl ⟨e, hb, rfl⟩⟩, h.raise e⟩
  · exact ⟨_, execClLens_next.2 ⟨hlit, hdist, hclen, hm, hlen, hp, .inr ⟨tab, hb, rfl⟩⟩, sameRun (l := l) { h with }⟩

theorem zhdr (h : s.Hides l) (cmf flg : Byte) : Matched (execZhdr cmf flg s) (execZhdr cmf flg (s.withLeftovers l)) := by
  refine whenDue (.of_sameRun ?_)
  split
  · exact h.raise _
  · exact sameRun (l := l) { h with }

/-- Every element does the same to both states. -/
theorem exec (h : s.Hides l) (i : Instr) : Matched (Machine.exec i s) (Machine.exec i (s.withLeftovers l)) := by
  cases i with
  | blkStored => exact update (l' := l) { h with curByte := fun hne => absurd rfl hne }
  | blkFixed | blkDynamic | dynHdr | eob => exact update (l' := l) { h with }
  | blkReserved => exact whenDue (.of_sameRun (h.raise .eBtypeReserved))
  | storedHdr => exact whenDue (.of_sameRun (.ite (h.raise .eStoredLen) (sameRun (l := l) { h with })))
  | rawByte b | lit b => exact update (l' := l.push s.wpos.toNat b) { h.push b with }
  | clLens lens => exact h.clLens lens
  | clLen | clCopy | clZero3 | clZero11 =>
    rw [exec_clSym rfl, exec_clSym rfl]
    exact h.codeLengths _
  | llInvalid | distInvalid => exact whenDue (.of_sameRun (h.raise .eBadSymbol))
  | len257 | len258 | len259 | len260 | len261 | len262 | len263 | len264 | len265 | len266 | len267 | len268 | len269
  | len270 | len271 | len272 | len273 | len274 | len275 | len276 | len277 | len278 | len279 | len280 | len281 | len282
  | len283 | len284 | len285 => exact update (l' := l) { h with }
  | dist0 | dist1 | dist2 | dist3 | dist4 | dist5 | dist6 | dist7 | dist8 | dist9 | dist10 | dist11 | dist12 | dist13
  | dist14 | dist15 | dist16 | dist17 | dist18 | dist19 | dist20 | dist21 | dist22 | dist23 | dist24 | dist25 | dist26
  | dist27 | dist28 | dist29 => exact h.distanceSymbol _
  | zhdr cmf flg => exact h.zhdr cmf flg
  | ztrailer => exact whenDue (.of_sameRun (.ite (h.raise .eZlibAdler) (sameRun (l := l) { h with })))

/-! The engine's steps. -/

theorem finishBody (h : s.Hides l) : SameRun s.finishBody (s.withLeftovers l).finishBody := by
  cases hm : s.mode with
  | raw | zlib =>
    simp only [State.finishBody, hm, show (s.withLeftovers l).mode = _ from hm]
    exact sameRun (l := l) { h with curByte := fun hne => absurd rfl hne }

/-- A copy reads a cell the run has written (R239, R254). -/
theorem read_copyAddr (h : s.Hides l) (hi : s.Inv) (hp : s.point = .copy) :
    s.window.read s.copyAddr = l.window.read s.copyAddr := by
  obtain ⟨hbody, -, -, hlen⟩ := State.point_copy hp
  obtain ⟨-, -, hpos, hdist⟩ := hi.copy (by rw [hbody]; rfl) hlen
  have hlt : s.copyDist.toNat - 1 < min s.totalOut Config.windowSize := by
    simp only [Config.maxDist, Config.windowSize] at hdist ⊢
    omega
  have hread := h.window _ hlt
  rwa [Nat.sub_add_cancel hpos, BitVec.ofNat_toNat, BitVec.setWidth_eq] at hread

theorem copyStep (h : s.Hides l) (hi : s.Inv) (hp : s.point = .copy) : Matched s.copyStep (s.withLeftovers l).copyStep := by
  intro t ht
  obtain ⟨b, hread, rfl⟩ := State.copyStep_next.1 ht
  exact ⟨_, State.copyStep_next.2 ⟨b, (h.read_copyAddr hi hp).symm.trans hread, rfl⟩,
    sameRun (l := l.push s.wpos.toNat b) { h.push b with }⟩

/-- The element that is due is read and run from both states, or waited for in both, or both raise. -/
theorem engine_element {c : Ctx} (h : s.Hides l) (hc : s.Awaits c) : Matched s.engine (s.withLeftovers l).engine := by
  have hc' : (s.withLeftovers l).Awaits c := { hc with }
  cases hdec : decode s.source c s.cur with
  | elem i cur =>
    obtain ⟨cur', hdec', halike⟩ := h.cursor.decode_elem hdec
    rw [hc.engine_of_elem hdec, hc'.engine_of_elem hdec', ← halike.eq_withByte]
    change Matched _ (if emits i && !s.sinkReady then _ else _)
    split
    · exact .of_sameRun h.sameRun
    · exact exec (s := { s with cur := cur }) (l := { l with curByte := cur'.curByte }) { h with curByte := halike.curByte } i
  | short =>
    rw [hc.engine_of_short hdec, hc'.engine_of_short (h.cursor.decode_short hc.ok hdec)]
    exact .of_sameRun (.ite (h.raise .ePrematureEnd) h.sameRun)
  | emptyTable =>
    rw [hc.engine_of_emptyTable hdec, hc'.engine_of_emptyTable (decode_emptyTable_anywhere hdec _)]
    exact .of_sameRun (h.raise .eBadSymbol)
  | noSuchSymbol sym => exact absurd hdec (decode_known hc.ok _ _)

/-- An element step of the engine does the same to both states. -/
theorem engine (h : s.Hides l) (hi : s.Inv) : Matched s.engine (s.withLeftovers l).engine := by
  intro t ht
  obtain ⟨hp, rfl⟩ | ⟨hp, rfl⟩ | ⟨hp, hsink, rfl⟩ | ⟨hp, hsink, hcopy⟩ | ⟨f, hp, -⟩ := State.engine_next.1 ht
  · exact ⟨_, State.engine_next.2 (.inl ⟨hp, rfl⟩), h.sameRun⟩
  · exact ⟨_, State.engine_bodyEnd hp, h.finishBody⟩
  · exact ⟨_, State.engine_next.2 (.inr (.inr (.inl ⟨hp, hsink, rfl⟩))), h.sameRun⟩
  · obtain ⟨t', hcopy', halike⟩ := h.copyStep hi hp t hcopy
    exact ⟨t', State.engine_next.2 (.inr (.inr (.inr (.inl ⟨hp, hsink, hcopy'⟩)))), halike⟩
  · obtain ⟨c, -, hc⟩ := hi.awaits hp
    exact h.engine_element hc t ht

end State.Hides

theorem sameRun_start (hs : s.phase.busy = false) (ht : t.phase.busy = false) (hops : s.hostOps = t.hostOps)
    (hin : s.input = t.input) (hlen : s.inLen = t.inLen) (hend : s.inEnded = t.inEnded) (hsink : s.sinkReady = t.sinkReady)
    (hoff : s.startOff = t.startOff) (hmode : s.ctrlMode = t.ctrlMode) : SameRun s.start t.start := by
  rw [State.start_idle hs, State.start_idle ht]
  exact
    { host := ⟨hops, hin, hlen, hend, hsink⟩
      control := ⟨hmode, hoff, hmode, by simp only [hmode]⟩
      result := ⟨rfl, rfl, rfl, rfl, rfl⟩
      place := rfl
      out := ⟨Nat.zero_le _, Nat.zero_le _, by simp [State.runOut]⟩
      cursor := fun _ => ⟨hoff, rfl, fun hne => absurd rfl hne⟩
      engine := fun _ => ⟨rfl, rfl, rfl, rfl, rfl, rfl, rfl, rfl⟩
      status := fun _ => ⟨by simp [hoff], rfl, rfl⟩
      window := by simp }

/-- Settles O53: START leaves only leftovers to differ, and an engine step does the same to two states that differ in those; after
a failure it does nothing. -/
theorem aRunDependsOnlyOnItsInput : Obligations.ARunDependsOnlyOnItsInput := by
  refine ⟨fun s t => sameRun_start, fun s t s' hsame hinv hops hstep => ?_⟩
  obtain ⟨hopsEq, -⟩ := hsame.host
  obtain ⟨-, -, -, hphase⟩ := hsame.control
  rw [step_engine hops] at hstep
  rw [step_engine (hopsEq ▸ hops)]
  by_cases hf : s.phase = .failed
  · rw [State.engine_idle (by rw [hf]; rfl)] at hstep
    rw [State.engine_idle (by rw [← hphase, hf]; rfl)]
    exact Matched.of_sameRun hsame s' hstep
  · obtain ⟨l, rfl, hl⟩ := hsame.leftovers hf
    exact hl.engine hinv s' hstep

end Sys2Proof.Machine
end
